-- ==== Sys2Proof/Word.lean ====
section
/-! DEFINITION. The word types of TONEBLK's command port (R80, R81) and of its timestamps (R66). -/

namespace Sys2Proof

/-- A word of the command port: a command word, an operand word or a response word (R80, R83). -/
abbrev Word := BitVec 32

/-- A waveform sample (R61, R65). -/
abbrev Byte := BitVec 8

/-- A pin number, the width of `TGT` (R81, R60). -/
abbrev PinId := BitVec 8

/-- A Speaker slot number, the width of `TGT` (R81, R60). -/
abbrev SlotId := BitVec 8

/-- A count of milliseconds: `NOW`, `DL`, `ALARM_AT` (R66, R89). -/
abbrev Time := BitVec 64

/-- A clock divisor, uQ17.8 (R87). -/
abbrev ClkDiv := BitVec 25

/-- A volume or a duty scale, uQ1.16 (R35, R36). -/
abbrev Unit16 := BitVec 17

end Sys2Proof
end

