-- ==== Sys2Proof/Config.lean ====
section
/-! DEFINITION. The implementation parameters of TONEBLK (R6), which a machine carries unchanged
between resets (R48, R282), and the free values the spec leaves open. -/

namespace Sys2Proof

/-- One entry of the waveform catalogue (R43): a read-only table of 8-bit samples, or the noise source. -/
inductive Wave where
  | table (bytes : List Byte)
  | noise
deriving DecidableEq, Repr

/-- The parameters of R6, every one an argument of the model (R6, R48). -/
structure Config where
  /-- `SYSCLK_HZ`, the system clock rate in Hz. -/
  sysclkHz : Nat
  /-- `OVERHEAD`, the channel program's cycles per period that belong to neither phase. -/
  overhead : Nat
  /-- `MIN_PHASE`, the least width of a phase in channel cycles. -/
  minPhase : Nat
  /-- `FREQ_FB`, fraction bits of a frequency: 8 in a legal configuration (D5, R84, log entry 10). -/
  freqFB : Nat
  /-- `DUTY_FB`, fraction bits of a duty and of a volume: 16 in a legal configuration (D6, R85, R86, log
  entry 10). -/
  dutyFB : Nat
  /-- `CLKDIV_FB`, fraction bits of the clock divisor: 8 in a legal configuration (D8, R87, log entry 10). -/
  clkdivFB : Nat
  /-- `CARRIER_HZ`, the carrier a Speaker drives, in Hz. -/
  carrierHz : Nat
  /-- `N_PINS`. -/
  nPins : Nat
  /-- `N_SLOTS`. -/
  nSlots : Nat
  /-- `N_CHANNELS`, the size of the peripheral's channel pool. -/
  nChannels : Nat
  /-- `WAVES`, the waveform catalogue. -/
  waves : List Wave
  /-- `DEFAULT_WAVE`, the catalogue index a new Speaker starts with. -/
  defaultWave : Nat
  /-- `IDLE_LEVEL`, the pin level a stop drives. -/
  idleLevel : Bool
deriving DecidableEq, Repr

namespace Config

/-- The example configuration of spec/95_test_vectors.md, parameter set A with its example catalogue.
DESIGN CHOICE (log entry 1, unsafe for statements about this instance only): R6 leaves these parameters
OPEN, and only `State.reset` uses this instance. -/
def exampleA : Config where
  sysclkHz := 125000000
  overhead := 4
  minPhase := 2
  freqFB := 8
  dutyFB := 16
  clkdivFB := 8
  carrierHz := 1000000
  nPins := 32
  nSlots := 4
  nChannels := 8
  waves :=
    [ .table [255, 0],
      .table [0, 85, 170, 255],
      .table [128, 176, 218, 245, 255, 245, 218, 176, 128, 79, 37, 10, 0, 10, 37, 79],
      .noise ]
  defaultWave := 0
  idleLevel := false

/-- The value `HANDLE[p]` takes at the n-th CH_STOP: the spec says it becomes unspecified (R156, I15), so
nothing constrains it (log entry 4). -/
opaque unspecifiedHandle : Nat → Nat

/-- The value `LASTCD[p]` takes at the n-th CH_STOP: the spec says it becomes unspecified (R156, I15), so
nothing constrains it (log entry 4). -/
opaque unspecifiedDivisor : Nat → ClkDiv

end Config

end Sys2Proof
end

