-- ==== Sys2Proof/Machine/Operands.lean ====
section
/-! DEFINITION. The derived constants, the arithmetic primitives of R11 and the operand and value formats of
R84 to R92. All arithmetic is exact (R10); a value meets its width only where it is written. -/

namespace Sys2Proof

/-- The logical size of a catalogue entry: the number of samples of a table, 1 for noise (R7, R43). -/
def Wave.size : Wave → Nat
  | .table bytes => bytes.length
  | .noise => 1

/-- The fraction bits of the formats of R84 to R87, which R6 gives one value each (log entry 10). -/
abbrev Config.FormatsLegal (c : Config) : Prop := c.freqFB = 8 ∧ c.dutyFB = 16 ∧ c.clkdivFB = 8

/-- The raw value of a duty or a volume of 1, `2^DUTY_FB`: the 65536 of R85, R86, R122, R127 and R182. -/
def Config.unit (c : Config) : Nat := 2 ^ c.dutyFB

/-- `LIMIT` of R8: the largest cycle count of one period at a clock divisor of 1. -/
def Config.limit (c : Config) : Nat := c.overhead + 0xFFFF + c.minPhase

end Sys2Proof

namespace Sys2Proof.Machine

/-- `clamp(x, lo, hi)` (R11). -/
def clamp {α : Type} [LT α] [DecidableLT α] (x lo hi : α) : α :=
  if x < lo then lo else if hi < x then hi else x

/-- `rdiv(a, b)`: `a / b` to the nearest integer, a tie away from zero (R11). -/
def rdiv (a b : Nat) : Nat := (2 * a + b) / (2 * b)

/-- `cdiv(a, b)`: `a / b` rounded up (R11). -/
def cdiv (a b : Nat) : Nat := (a + b - 1) / b

/-- `fdiv(a, b)`: `a / b` rounded down (R11). -/
def fdiv (a b : Nat) : Nat := a / b

/-- `sint32(w)`: the two's-complement value of a word (R11). -/
def sint32 (w : Word) : Int := w.toInt

/-- `uint32(w)`: the unsigned value of a word (R11). -/
def uint32 (w : Word) : Nat := w.toNat

/-- A clamped duty or volume, uQ1.16: `clamp(x, 0, 65536)` (R85, R86, R122). -/
def clampUnit (c : Config) (x : Int) : Nat := (clamp x 0 (c.unit : Int)).toNat

/-- The raw value of `CARRIER_HZ` in the frequency format: `CARRIER_HZ · 2^FREQ_FB` (R232). -/
def carrierFq (c : Config) : Int := (c.carrierHz * 2 ^ c.freqFB : Nat)

/-- `W = {PH, PL}`: the high phase in bits 31:16, the low phase in bits 15:0, each at most
65535 (R88). -/
def packPhases (ph pl : Nat) : Word := BitVec.ofNat 32 (ph * 2 ^ 16 + pl)

/-- `t + d` milliseconds, modulo 2^64 (R66). -/
def addMs (t : Time) (d : Word) : Time := t + d.setWidth 64

end Sys2Proof.Machine
end

