-- ==== Sys2Proof/Machine/State.lean ====
section
/-! DEFINITION. The state of TONEBLK (spec/10_state.md), its output call trace (R258), the port and the
environment's inputs (R259), and the reset state (R280). -/

namespace Sys2Proof.Machine

/-- The pin modes the block asks for (R258). -/
inductive PinMode where
  | output
deriving DecidableEq, Repr

/-- The calls the block makes to its collaborators: every row of R258's table. -/
inductive Call where
  | claimChannel (p : PinId)
  | releaseChannel (h : Nat)
  | setClockDivisor (h : Nat) (cd : ClkDiv)
  | clearBuffer (h : Nat)
  | pushWord (h : Nat) (w : Word)
  | setEnabled (h : Nat) (b : Bool)
  /-- `scheduleOnce(dMs, p)`: delay in milliseconds. -/
  | scheduleOnce (dMs : Word) (p : PinId)
  | cancelOnce (p : PinId)
  /-- `scheduleRepeating(iUs, s)`: interval in microseconds. -/
  | scheduleRepeating (iUs : Word) (v : SlotId)
  | cancelRepeating (v : SlotId)
  | rearm (iUs : Word) (v : SlotId)
  | setPinMode (p : PinId) (m : PinMode)
  | writePin (p : PinId) (level : Bool)
deriving DecidableEq, Repr

/-- The channel record of one pin (R23 to R28). The defaults are the reset values: the spec's for `bound`,
`hwen` and `alarmPend`, the model's for the rest (DESIGN CHOICE, log entry 2). -/
structure PinRec where
  /-- `BOUND[p]` (R23). -/
  bound : Bool := false
  /-- `HANDLE[p]` (R24), meaningful while bound. -/
  handle : Nat := 0
  /-- `HWEN[p]` (R25). -/
  hwen : Bool := false
  /-- `LASTCD[p]` (R26). -/
  lastcd : ClkDiv := 0
  /-- `ALARM_PEND[p]` (R27). -/
  alarmPend : Bool := false
  /-- `ALARM_AT[p]` (R28), meaningful while an alarm is pending. -/
  alarmAt : Time := 0
deriving DecidableEq, Repr

/-- The Speaker record of one slot (R29 to R42). The defaults are the reset values: the spec's for `valid`,
the model's for the rest (DESIGN CHOICE, log entry 2). -/
structure SlotRec where
  /-- `VALID[s]` (R29). -/
  valid : Bool := false
  /-- `PIN[s]` (R30). -/
  pin : PinId := 0
  /-- `AFF[s]` (R31), which no rule reads (R194). -/
  aff : Bool := false
  /-- `WAVE[s]` (R32). -/
  wave : BitVec 8 := 0
  /-- `PEND_VALID[s]` (R33). -/
  pendValid : Bool := false
  /-- `PEND[s]` (R33), meaningful while a swap is pending. -/
  pend : BitVec 8 := 0
  /-- `FREQ[s]` (R34), sQ23.8. -/
  freq : Word := 0
  /-- `VOL[s]` (R35). -/
  vol : Unit16 := 0
  /-- `SCALE[s]` (R36). -/
  scale : Unit16 := 0
  /-- `PERIOD[s]` (R37), microseconds. -/
  period : Word := 0
  /-- `PLAYING[s]` (R38). -/
  playing : Bool := false
  /-- `INDEX[s]` (R39). -/
  index : BitVec 8 := 0
  /-- `DL_VALID[s]` (R40). -/
  dlValid : Bool := false
  /-- `DL[s]` (R40), meaningful while a deadline is set. -/
  dl : Time := 0
  /-- `DIRTY[s]` (R41). -/
  dirty : Bool := false
  /-- `TMR_REG[s]` (R42). -/
  tmrReg : Bool := false
  /-- `TMR_INTERVAL[s]` (R42), microseconds. -/
  tmrInterval : Word := 0
deriving DecidableEq, Repr

/-- What one operation reads from the environment besides its words (R259): the timestamp `NOW` (R66), the
answer to `claimChannel` (R158: a handle, or none for failure), and the noise byte (R223). An operation
makes at most one claim and at most one noise read, so one answer of each is enough. -/
structure Env where
  now : Time := 0
  claim : Option Nat := none
  noise : Byte := 0
deriving DecidableEq, Repr

/-- A transaction on the command port (R80) with the environment's inputs to its operation. The opcode's
format says how many of `a0`, `a1`, `a2` the issuer writes (R82); the others are not part of it. -/
structure Transaction where
  cmd : Word
  a0 : Word := 0
  a1 : Word := 0
  a2 : Word := 0
  env : Env := {}
deriving DecidableEq, Repr

/-- The machine. `inbox`, `env` and `freeCount` are the model's own (log entries 4, 6, 7); all the rest is
the spec's state (spec/10_state.md) and its configuration (R48). -/
structure State where
  /-- The parameters (R6), constant between resets (R48); the catalogue `WAVES` (R43) is among them. -/
  cfg : Config
  /-- The operand latches (R20). -/
  a0 : Word
  a1 : Word
  a2 : Word
  /-- The response latches `STATUS`, `RES0`, `RES1` (R20, R83). -/
  status : Word
  res0 : Word
  res1 : Word
  /-- One channel record per value of `TGT`; those from `N_PINS` up are never used (R95, log entry 11). -/
  pins : Vector PinRec (2 ^ 8)
  /-- One Speaker record per value of `TGT`; those from `N_SLOTS` up are never used (R95, log entry 11). -/
  slots : Vector SlotRec (2 ^ 8)
  /-- The output call trace, oldest call first (R258). -/
  trace : List Call
  /-- The transactions not yet executed, in the total order of R67. -/
  inbox : List Transaction
  /-- The environment's inputs to the operation being executed. -/
  env : Env
  /-- How many free values have been drawn. -/
  freeCount : Nat
deriving DecidableEq, Repr

/-- Why the machine would stop with a fault: never. No operation traps or stops the block (R250, R261), so
there is no constructor. -/
inductive Fault : Type
deriving DecidableEq, Repr

/-- Why a step has no meaning. -/
inductive Refusal where
  /-- Raised by `exec` for an instruction that has no meaning yet; none is left. Safe: nothing runs. -/
  | notModelled (mnemonic : String)
  /-- Raised by `step` for a configuration that breaks R6 or R7, which R7 and I8 say a model refuses. Safe:
  nothing runs. -/
  | illegalConfiguration
deriving DecidableEq, Repr

/-- What an operation answers with. -/
abbrev Result := Host.Outcome State Fault Refusal

/-- The state after reset of a block configured by `c` (R280). -/
def State.resetOf (c : Config) : State where
  cfg := c
  a0 := 0
  a1 := 0
  a2 := 0
  status := 0
  res0 := 0
  res1 := 0
  pins := Vector.replicate (2 ^ 8) {}
  slots := Vector.replicate (2 ^ 8) {}
  trace := []
  inbox := []
  env := {}
  freeCount := 0

/-- The state after reset, for the example configuration (DESIGN CHOICE, log entry 1). -/
def State.reset : State := State.resetOf Config.exampleA

end Sys2Proof.Machine
end

