-- ==== Sys2Proof/Machine/Flags.lean ====
section
/-! DEFINITION. The status codes (R93) and the tests the rules make on the flags of R46. No operation writes
a flag as a side effect, and there are no arithmetic condition codes (R46). -/

namespace Sys2Proof.Machine

/-- The status of an operation (R93). -/
inductive Status where
  | ok
  | noop
  | rejFreqNonpos
  | rejFreqTooLow
  | rejFreqTooHigh
  | rejPhaseTooShort
  | rejPackOverflow
  | noChannel
  | notBound
  | illegal
deriving DecidableEq, Repr

/-- The number of a status code (R93). -/
def Status.code : Status → BitVec 8
  | .ok => 0x00
  | .noop => 0x01
  | .rejFreqNonpos => 0x02
  | .rejFreqTooLow => 0x03
  | .rejFreqTooHigh => 0x04
  | .rejPhaseTooShort => 0x05
  | .rejPackOverflow => 0x06
  | .noChannel => 0x07
  | .notBound => 0x08
  | .illegal => 0x0F

/-- A status as a response word: the code in bits 7:0, the rest 0 (R83). -/
def Status.word (st : Status) : Word := st.code.setWidth 32

/-- Apply's test for writing the divisor: the channel is disabled, or the divisor changes (R153). -/
def PinRec.needsDivisor (r : PinRec) (cd : ClkDiv) : Bool := !r.hwen || cd != r.lastcd

/-- "A deadline is set and has passed": `DL_VALID = 1` and `NOW ≥ DL`, unsigned (R227). -/
def SlotRec.deadlinePassed (r : SlotRec) (now : Time) : Bool := r.dlValid && decide (r.dl ≤ now)

/-- Step 3 of EV_TICK: a swap is pending and the index is at the wrap point (R220). -/
def SlotRec.swapDue (r : SlotRec) : Bool := r.index == 0 && r.pendValid

/-- A flag as a response word (R190). -/
def flagWord (b : Bool) : Word := (BitVec.ofBool b).setWidth 32

end Sys2Proof.Machine
end

