-- ==== Sys2Proof/Machine/Ops.lean ====
section
/-! DEFINITION. The named operations over the records, the trace and the response latches; the one ILLEGAL
operation (R96), which is what TONEBLK has in place of an exception entry (R250, R261); and the checks of
R95 and R7. -/

namespace Sys2Proof.Machine

/-- The channel record of pin `p`. -/
def State.pin (s : State) (p : PinId) : PinRec := s.pins[p.toNat]'p.isLt

/-- Pin `p`'s channel record becomes `r`. -/
def State.setPin (s : State) (p : PinId) (r : PinRec) : State :=
  { s with pins := s.pins.set p.toNat r p.isLt }

/-- The Speaker record of slot `v`. -/
def State.slot (s : State) (v : SlotId) : SlotRec := s.slots[v.toNat]'v.isLt

/-- Slot `v`'s Speaker record becomes `r`. -/
def State.setSlot (s : State) (v : SlotId) (r : SlotRec) : State :=
  { s with slots := s.slots.set v.toNat r v.isLt }

/-- `Emit` of some calls, in order (R11, R258). -/
def State.emit (s : State) (calls : List Call) : State := { s with trace := s.trace ++ calls }

/-- One more free value has been drawn (log entry 4). -/
def State.drawFree (s : State) : State := { s with freeCount := s.freeCount + 1 }

/-- The response of an operation (R83). -/
def State.respond (s : State) (st : Status) (res0 res1 : Word) : State :=
  { s with status := st.word, res0 := res0, res1 := res1 }

/-- An ILLEGAL transaction: the response `ILLEGAL, 0, 0` and nothing else (R96). -/
def State.illegal (s : State) : State := s.respond .illegal 0 0

/-- The next state of an operation that ends with a status and names no result word (R83). -/
def answer (r : State × Status) : Result := .next (r.1.respond r.2 0 0)

/-- R95 item 4: a channel operation of a pin the block has not is ILLEGAL. -/
def checkPin (p : PinId) (s : State) (k : Result) : Result :=
  if p.toNat < s.cfg.nPins then k else .next s.illegal

/-- R95 items 5 and 8 (R191): a Speaker operation of a slot the block has not, or that is not constructed,
is ILLEGAL. -/
def checkSlot (v : SlotId) (s : State) (k : Result) : Result :=
  if v.toNat < s.cfg.nSlots ∧ (s.slot v).valid then k else .next s.illegal

/-- The catalogue entry of index `w`. An index past the catalogue, which no reachable state holds (R32),
reads as noise (log entry 11). -/
def wave (c : Config) (w : BitVec 8) : Wave := c.waves.getD w.toNat .noise

/-- `size(w)` (R43). -/
def waveSize (c : Config) (w : BitVec 8) : Nat := (wave c w).size

/-- A natural number that is a power of two from 1 to 256 (R7). -/
def tableSizeLegal (n : Nat) : Bool := [1, 2, 4, 8, 16, 32, 64, 128, 256].contains n

/-- What R7 asks of a catalogue entry. -/
def waveLegal : Wave → Bool
  | .table bytes => tableSizeLegal bytes.length
  | .noise => true

/-- The ranges of R6, its formats (log entry 10) and the constraints of R7. A configuration that breaks one is
refused (R7, I8, log entry 9). -/
def configLegal (c : Config) : Bool :=
  decide (1 ≤ c.sysclkHz ∧ c.sysclkHz ≤ 2 ^ 32 - 1) &&
  decide c.FormatsLegal &&
  decide (1 ≤ c.nPins ∧ c.nPins ≤ 256) &&
  decide (1 ≤ c.nSlots ∧ c.nSlots ≤ 256) &&
  decide (1 ≤ c.waves.length ∧ c.waves.length ≤ 256) &&
  decide (c.defaultWave < c.waves.length) &&
  c.waves.all waveLegal &&
  decide (c.carrierHz * 2 ^ c.freqFB ≤ 2 ^ 31 - 1)

end Sys2Proof.Machine
end

