-- ==== Sys2Proof/Machine/Encoder.lean ====
section
/-! DEFINITION. The Frequency/Duty Encoder (spec/40_encoder.md): the function Encode step by step (R121 to
R130) and the ENCODE command (R120). -/

namespace Sys2Proof.Machine

/-- What Encode returns: `(st, CD, W)`. -/
structure Encoded where
  st : Status
  cd : ClkDiv
  w : Word
deriving DecidableEq, Repr

/-- A rejection: `CD = 0` and `W = 0`. -/
def Encoded.reject (st : Status) : Encoded := { st := st, cd := 0, w := 0 }

/-- `REQ`: system-clock cycles in one period (R123). -/
def requiredCycles (c : Config) (f : Nat) : Nat := rdiv (c.sysclkHz * 2 ^ c.freqFB) f

/-- `CD`: the clock divisor, slowed only when `REQ` exceeds `LIMIT`, rounded up (R124). -/
def clockDivisor (c : Config) (req : Nat) : Nat :=
  if c.limit < req then cdiv (req * 2 ^ c.clkdivFB) c.limit else 2 ^ c.clkdivFB

/-- The largest clock divisor, 65536 in uQ17.8 (R124). -/
def maxDivisor (c : Config) : Nat := 65536 * 2 ^ c.clkdivFB

/-- `TOTAL`: divided-clock cycles in one period (R125). -/
def totalCycles (c : Config) (f cd : Nat) : Nat :=
  rdiv (c.sysclkHz * 2 ^ (c.freqFB + c.clkdivFB)) (cd * f)

/-- `HIGH`: the high phase of `VAR` cycles at the clamped duty `D` (R127). -/
def highPhase (c : Config) (var d : Nat) : Nat :=
  clamp (rdiv (var * d) c.unit) c.minPhase (var - c.minPhase)

/-- Steps 6 and 7: split `VAR` cycles by the clamped duty `D` and pack the phases (R127, R128). -/
def packSplit (c : Config) (cd var d : Nat) : Encoded :=
  let high := highPhase c var d
  let low := var - high
  let ph := high - c.minPhase
  let pl := low - c.minPhase
  if 65535 < ph ∨ 65535 < pl then .reject .rejPackOverflow
  else { st := .ok, cd := BitVec.ofNat 25 cd, w := packPhases ph pl }

/-- `Encode(fq, duty)` (R121 to R130): the first step that rejects gives the status. -/
def encodeFD (c : Config) (fq duty : Int) : Encoded :=
  if fq ≤ 0 then .reject .rejFreqNonpos
  else
    let f := fq.toNat
    let d := clampUnit c duty
    let cd := clockDivisor c (requiredCycles c f)
    let total := totalCycles c f cd
    let var := total - c.overhead
    if maxDivisor c < cd then .reject .rejFreqTooLow
    else if total ≤ c.overhead then .reject .rejFreqTooHigh
    else if var < 2 * c.minPhase then .reject .rejPhaseTooShort
    else packSplit c cd var d

/-- ENCODE (R120). -/
def execEncode (fq duty : Word) (s : State) : Result :=
  let e := encodeFD s.cfg (sint32 fq) (sint32 duty)
  .next (s.respond e.st (e.cd.setWidth 32) e.w)

end Sys2Proof.Machine
end

