-- ==== Sys2Proof/Machine/Channel.lean ====
section
/-! DEFINITION. The Channel Output Stage (spec/41_channel.md): the shared pieces, and START, RETUNE, CH_STOP
and EV_ALARM. An operation another one performs with `Do` is a function on states that yields its status
(R11, R97). -/

namespace Sys2Proof.Machine

/-- Some bound pin holds handle `h`. -/
def State.holdsHandle (s : State) (h : Nat) : Bool := s.pins.toList.any fun r => r.bound && r.handle == h

/-- How many pins are bound. -/
def State.boundCount (s : State) : Nat := s.pins.toList.countP fun r => r.bound

/-- `Draw(claim)` (R158): the environment's answer, held to the rule's law. A handle that is not below
`N_CHANNELS`, is held by a bound pin, or comes when `N_CHANNELS` pins are bound is no lawful answer and
counts as failure (log entry 8). -/
def State.claimAnswer (s : State) : Option Nat :=
  match s.env.claim with
  | none => none
  | some h =>
    if h < s.cfg.nChannels ∧ s.boundCount < s.cfg.nChannels ∧ s.holdsHandle h = false then some h else none

/-- `Apply(p, CD, W)` (R153). Where no divisor is written, `LASTCD` is `CD` already. -/
def applyWord (p : PinId) (cd : ClkDiv) (w : Word) (s : State) : State :=
  let r := s.pin p
  let calls :=
    (if r.needsDivisor cd then [Call.setClockDivisor r.handle cd] else []) ++
    [.clearBuffer r.handle, .pushWord r.handle w] ++
    (if r.hwen then [] else [.setEnabled r.handle true])
  (s.emit calls).setPin p { r with hwen := true, lastcd := cd }

/-- "Cancel any pending auto-stop" of pin `p` (R150, R156). -/
def cancelAlarm (p : PinId) (s : State) : State :=
  if (s.pin p).alarmPend then (s.emit [.cancelOnce p]).setPin p { s.pin p with alarmPend := false } else s

/-- Schedule the auto-stop of pin `p` when `dur > 0` (R154). -/
def scheduleStop (p : PinId) (dur : Word) (s : State) : State :=
  if 0 < uint32 dur then
    (s.emit [.scheduleOnce dur p]).setPin p
      { s.pin p with alarmPend := true, alarmAt := addMs s.env.now dur }
  else s

/-- Pin `p` gets a channel if it has none (R152, R158); the Bool says whether it now has one. -/
def ensureBound (p : PinId) (s : State) : State × Bool :=
  if (s.pin p).bound then (s, true)
  else
    match s.claimAnswer with
    | none => (s.emit [.claimChannel p], false)
    | some h =>
      ((s.emit [.claimChannel p, .setEnabled h false]).setPin p
        { s.pin p with bound := true, handle := h, hwen := false }, true)

/-- `CH_STOP(p)` (R156). `HANDLE` and `LASTCD` become unspecified: free values (log entry 4). -/
def chStopOp (p : PinId) (s : State) : State × Status :=
  if (s.pin p).bound then
    let s1 := cancelAlarm p s
    let r := s1.pin p
    let calls :=
      [Call.setEnabled r.handle false, .releaseChannel r.handle, .setPinMode p .output,
        .writePin p s.cfg.idleLevel]
    (((s1.emit calls).setPin p
      { r with
        hwen := false
        bound := false
        handle := Config.unspecifiedHandle s.freeCount
        lastcd := Config.unspecifiedDivisor s.freeCount }).drawFree, .ok)
  else (s, .notBound)

/-- `START(p, fq, duty, dur)` (R150, R151, R159). -/
def startOp (p : PinId) (fq duty : Int) (dur : Word) (s : State) : State × Status :=
  if fq ≤ 0 then chStopOp p s
  else
    let e := encodeFD s.cfg fq duty
    if e.st = .ok then
      match ensureBound p s with
      | (s1, false) => (s1, .noChannel)
      | (s1, true) => (scheduleStop p dur (applyWord p e.cd e.w (cancelAlarm p s1)), .ok)
    else (s, e.st)

/-- `RETUNE(p, fq, duty)` (R155, R159). -/
def retuneOp (p : PinId) (fq duty : Int) (s : State) : State × Status :=
  if (s.pin p).bound then
    let e := encodeFD s.cfg fq duty
    if e.st = .ok then (applyWord p e.cd e.w s, .ok) else (s, e.st)
  else (s, .notBound)

/-- EV_ALARM's effect (R157): the alarm has fired, so the inline CH_STOP cancels none. -/
def alarmOp (p : PinId) (s : State) : State × Status :=
  if (s.pin p).alarmPend then chStopOp p (s.setPin p { s.pin p with alarmPend := false })
  else (s, .noop)

/-- START (R150). -/
def execStart (p : PinId) (fq duty dur : Word) (s : State) : Result :=
  checkPin p s (answer (startOp p (sint32 fq) (sint32 duty) dur s))

/-- RETUNE (R155). -/
def execRetune (p : PinId) (fq duty : Word) (s : State) : Result :=
  checkPin p s (answer (retuneOp p (sint32 fq) (sint32 duty) s))

/-- CH_STOP (R156). -/
def execChStop (p : PinId) (s : State) : Result :=
  checkPin p s (answer (chStopOp p s))

/-- EV_ALARM (R157). -/
def execEvAlarm (p : PinId) (s : State) : Result :=
  checkPin p s (answer (alarmOp p s))

end Sys2Proof.Machine
end

