-- ==== Sys2Proof/Machine/Speaker.lean ====
section
/-! DEFINITION. The Speaker slots (spec/42_speaker.md): the step period, the volume law, construction,
setters, SPK_PLAY, SPK_STOP and the getters. -/

namespace Sys2Proof.Machine

/-- `StepPeriod(n, fq)` in microseconds (R181). -/
def stepPeriod (c : Config) (n : Nat) (fq : Int) : Nat :=
  max 1 (fdiv (10 ^ 6 * 2 ^ c.freqFB) (n * fq.toNat))

/-- `VolLaw(V)`: the duty scale of a volume (R182). -/
def volLaw (c : Config) (v : Nat) : Nat := if 100 * v < c.unit then 0 else rdiv (v * v) c.unit

/-- The record with `PERIOD = StepPeriod(size(WAVE), FREQ)` (R37). -/
def SlotRec.withPeriod (r : SlotRec) (c : Config) : SlotRec :=
  { r with period := BitVec.ofNat 32 (stepPeriod c (waveSize c r.wave) (sint32 r.freq)) }

/-- The record with volume `x` clamped and the duty scale that goes with it (R35, R36). -/
def SlotRec.withVolume (r : SlotRec) (c : Config) (x : Int) : SlotRec :=
  { r with
    vol := BitVec.ofNat 17 (clampUnit c x)
    scale := BitVec.ofNat 17 (volLaw c (clampUnit c x)) }

/-- The record with a deadline `d` milliseconds after `now` (R186). -/
def SlotRec.withDeadline (r : SlotRec) (now : Time) (d : Word) : SlotRec :=
  { r with dl := addMs now d, dlValid := true }

/-- SPK_INIT's new record (R180). Fields it does not name keep their values. -/
def SlotRec.construct (r : SlotRec) (c : Config) (p : PinId) (aff : Bool) (fq vol : Word) : SlotRec :=
  let r1 :=
    { r with
      valid := true
      pin := p
      aff := aff
      wave := BitVec.ofNat 8 c.defaultWave
      pendValid := false
      freq := fq
      playing := false
      index := 0
      dlValid := false
      dirty := false
      tmrReg := false }
  (r1.withVolume c (sint32 vol)).withPeriod c

/-- `SPK_STOP(s)` with its response `(STATUS, RES0, RES1)` (R187). -/
def spkStopOp (v : SlotId) (s : State) : State × Status × Word × Word :=
  if (s.slot v).playing then
    let s1 := (s.setSlot v { s.slot v with playing := false, dlValid := false, tmrReg := false }).emit
      [.cancelRepeating v]
    let (s2, st) := chStopOp (s.slot v).pin s1
    (s2, .ok, st.word, 0)
  else (s, .noop, 0, 0)

/-- The start branch of SPK_PLAY (R186): the carrier START, the repeating timer, then the slot's fields. -/
def spkPlayStart (v : SlotId) (d : Word) (s : State) : State × Status :=
  let r := s.slot v
  let (s1, st) := startOp r.pin (carrierFq s.cfg) 0 0 s
  let s2 := s1.emit [.scheduleRepeating r.period v]
  let r1 := { r with tmrReg := true, tmrInterval := r.period, playing := true }
  (s2.setSlot v (if 0 < uint32 d then r1.withDeadline s.env.now d else r1), st)

/-- SPK_INIT (R180), with its checks (R95 items 5, 6 and 8, R191). -/
def execSpkInit (v : SlotId) (p : PinId) (aff : Bool) (fq vol : Word) (s : State) : Result :=
  if v.toNat < s.cfg.nSlots ∧ p.toNat < s.cfg.nPins ∧ (s.slot v).valid = false ∧ 0 < sint32 fq then
    .next ((s.setSlot v ((s.slot v).construct s.cfg p aff fq vol)).respond .ok 0 0)
  else .next s.illegal

/-- SPK_SET_FREQ (R183). -/
def execSpkSetFreq (v : SlotId) (fq : Word) (s : State) : Result :=
  checkSlot v s (
    let r := s.slot v
    if fq = r.freq ∨ sint32 fq ≤ 0 then answer (s, .noop)
    else
      let r1 := ({ r with freq := fq }).withPeriod s.cfg
      answer (s.setSlot v { r1 with dirty := r.dirty || r.playing }, .ok))

/-- SPK_SET_VOL (R184): the operand is compared before it is clamped. -/
def execSpkSetVol (v : SlotId) (vol : Word) (s : State) : Result :=
  checkSlot v s (
    let r := s.slot v
    if sint32 vol = r.vol.toNat then answer (s, .noop)
    else answer (s.setSlot v (r.withVolume s.cfg (sint32 vol)), .ok))

/-- SPK_SET_WAVE (R185), with its check (R95 item 7). -/
def execSpkSetWave (v : SlotId) (w : BitVec 8) (s : State) : Result :=
  checkSlot v s (
    let r := s.slot v
    if w.toNat < s.cfg.waves.length then
      if r.playing then answer (s.setSlot v { r with pend := w, pendValid := true }, .ok)
      else answer (s.setSlot v (({ r with wave := w }).withPeriod s.cfg), .ok)
    else .next s.illegal)

/-- SPK_PLAY (R186): on a playing slot only the deadline changes. -/
def execSpkPlay (v : SlotId) (d : Word) (s : State) : Result :=
  checkSlot v s (
    let r := s.slot v
    if r.playing then
      answer (s.setSlot v (if 0 < uint32 d then r.withDeadline s.env.now d else { r with dlValid := false }),
        .ok)
    else
      let (s1, st) := spkPlayStart v d s
      .next (s1.respond .ok st.word 0))

/-- SPK_STOP (R187). -/
def execSpkStop (v : SlotId) (s : State) : Result :=
  checkSlot v s (
    let (s1, st, res0, res1) := spkStopOp v s
    .next (s1.respond st res0 res1))

/-- SPK_GET_FREQ (R188). -/
def execSpkGetFreq (v : SlotId) (s : State) : Result :=
  checkSlot v s (.next (s.respond .ok (s.slot v).freq 0))

/-- SPK_GET_VOL (R189). -/
def execSpkGetVol (v : SlotId) (s : State) : Result :=
  checkSlot v s (.next (s.respond .ok ((s.slot v).vol.setWidth 32) 0))

/-- SPK_IS_PLAYING (R190). -/
def execSpkIsPlaying (v : SlotId) (s : State) : Result :=
  checkSlot v s (.next (s.respond .ok (flagWord (s.slot v).playing) 0))

end Sys2Proof.Machine
end

