-- ==== Sys2Proof/Machine/Pipeline.lean ====
section
/-! DEFINITION. The waveform pipeline (spec/43_pipeline.md): the sample read, the scaling and EV_TICK. -/

namespace Sys2Proof.Machine

/-- `Sample(w, i)` (R222): a table's byte at the wrapped index, or the noise byte drawn (R223). -/
def sample (c : Config) (w : BitVec 8) (i : Nat) (noise : Byte) : Nat :=
  match wave c w with
  | .table bytes => (bytes.getD (i &&& (bytes.length - 1)) 0).toNat
  | .noise => noise.toNat

/-- `ScaleSample(smp, SCALE)`: the duty of one step (R221). -/
def scaleSample (smp scale : Nat) : Nat := rdiv (smp * scale) 255

/-- `(INDEX + 1) & (size − 1)` (R224). -/
def nextIndex (c : Config) (r : SlotRec) : BitVec 8 :=
  BitVec.ofNat 8 ((r.index.toNat + 1) &&& (waveSize c r.wave - 1))

/-- Step 3 of EV_TICK: commit a swap that is due (R220, R225). -/
def SlotRec.commitSwap (r : SlotRec) (c : Config) : SlotRec :=
  if r.swapDue then
    { ({ r with wave := r.pend, pendValid := false }).withPeriod c with dirty := true }
  else r

/-- Step 4 of EV_TICK: give the timer a new interval if it is dirty (R220, R226). -/
def tickRearm (v : SlotId) (s : State) : State :=
  let r := s.slot v
  if r.dirty then
    (s.emit [.rearm r.period v]).setSlot v { r with tmrInterval := r.period, dirty := false }
  else s

/-- The duty of slot `v`'s next step: its sample scaled (R220 step 5). -/
def tickDuty (v : SlotId) (s : State) : Nat :=
  let r := s.slot v
  scaleSample (sample s.cfg r.wave r.index.toNat s.env.noise) r.scale.toNat

/-- Step 5 of EV_TICK: read, scale, advance and republish, with RETUNE's status and the duty (R220). -/
def tickPublish (v : SlotId) (s : State) : State × Status × Nat :=
  let r := s.slot v
  let d := tickDuty v s
  let s1 := s.setSlot v { r with index := nextIndex s.cfg r }
  let (s2, st) := retuneOp r.pin (carrierFq s.cfg) d s1
  (s2, st, d)

/-- EV_TICK (R220). -/
def execEvTick (v : SlotId) (s : State) : Result :=
  checkSlot v s (
    let r := s.slot v
    if r.playing then
      if r.deadlinePassed s.env.now then
        let (s1, st, res0, res1) := spkStopOp v s
        .next (s1.respond st res0 res1)
      else
        let s1 := tickRearm v (s.setSlot v (r.commitSwap s.cfg))
        let (s2, st, d) := tickPublish v s1
        .next (s2.respond .ok st.word (BitVec.ofNat 32 d))
    else answer (s, .noop))

end Sys2Proof.Machine
end

