-- ==== Sys2Proof/Syntax.lean ====
section
/-! DEFINITION. The operations of TONEBLK: one constructor per row of spec/opcode_table.json (R94). -/

namespace Sys2Proof

/-- An operation with the fields its transaction carries. Operand words stay raw 32-bit words, since every
value of an `fq`, `duty`, `vol` or `dur` word is legal (R95); how each is read is R84 to R92. -/
inductive Instr where
  /-- ENCODE (R120). -/
  | encode (fq duty : Word)
  /-- START (R150). -/
  | start (pin : PinId) (fq duty dur : Word)
  /-- RETUNE (R155). -/
  | retune (pin : PinId) (fq duty : Word)
  /-- CH_STOP (R156). -/
  | chStop (pin : PinId)
  /-- SPK_INIT (R180); `pin` and `aff` are the fields of `A0` (R91). -/
  | spkInit (slot : SlotId) (pin : PinId) (aff : Bool) (fq vol : Word)
  /-- SPK_SET_FREQ (R183). -/
  | spkSetFreq (slot : SlotId) (fq : Word)
  /-- SPK_SET_VOL (R184). -/
  | spkSetVol (slot : SlotId) (vol : Word)
  /-- SPK_SET_WAVE (R185); `wave` is the catalogue index of `A0` (R92). -/
  | spkSetWave (slot : SlotId) (wave : BitVec 8)
  /-- SPK_PLAY (R186). -/
  | spkPlay (slot : SlotId) (dur : Word)
  /-- SPK_STOP (R187). -/
  | spkStop (slot : SlotId)
  /-- SPK_GET_FREQ (R188). -/
  | spkGetFreq (slot : SlotId)
  /-- SPK_GET_VOL (R189). -/
  | spkGetVol (slot : SlotId)
  /-- SPK_IS_PLAYING (R190). -/
  | spkIsPlaying (slot : SlotId)
  /-- EV_TICK (R220), issued by the repeating step timer. -/
  | evTick (slot : SlotId)
  /-- EV_ALARM (R157), issued by the one-shot auto-stop alarm. -/
  | evAlarm (pin : PinId)
deriving DecidableEq, Repr

end Sys2Proof
end

