-- ==== Sys2Proof/Machine/Dispatch.lean ====
section
/-! DEFINITION. One arm per operation of the opcode map (R94). -/

namespace Sys2Proof.Machine

def exec (i : Instr) (s : State) : Host.Outcome State Fault Refusal :=
  match i with
  | .encode fq duty => Sys2Proof.Machine.execEncode fq duty s
  | .start p fq duty dur => Sys2Proof.Machine.execStart p fq duty dur s
  | .retune p fq duty => Sys2Proof.Machine.execRetune p fq duty s
  | .chStop p => Sys2Proof.Machine.execChStop p s
  | .spkInit v p aff fq vol => Sys2Proof.Machine.execSpkInit v p aff fq vol s
  | .spkSetFreq v fq => Sys2Proof.Machine.execSpkSetFreq v fq s
  | .spkSetVol v vol => Sys2Proof.Machine.execSpkSetVol v vol s
  | .spkSetWave v w => Sys2Proof.Machine.execSpkSetWave v w s
  | .spkPlay v dur => Sys2Proof.Machine.execSpkPlay v dur s
  | .spkStop v => Sys2Proof.Machine.execSpkStop v s
  | .spkGetFreq v => Sys2Proof.Machine.execSpkGetFreq v s
  | .spkGetVol v => Sys2Proof.Machine.execSpkGetVol v s
  | .spkIsPlaying v => Sys2Proof.Machine.execSpkIsPlaying v s
  | .evTick v => Sys2Proof.Machine.execEvTick v s
  | .evAlarm p => Sys2Proof.Machine.execEvAlarm p s

end Sys2Proof.Machine
end

