-- ==== Sys2Proof/Decode.lean ====
section
/-! DEFINITION. The command word, the opcode map, the decoder and the encoder (R80 to R83, R91, R92, R94,
R95 items 1 to 3, 6 and 7). -/

namespace Sys2Proof

/-- The five operand formats (R82). -/
inductive Format where
  | c0 | c1 | c2 | c3 | ev
deriving DecidableEq, Repr

/-- How many operand words follow the command word (R82). -/
def Format.operandCount : Format → Nat
  | .c0 => 0
  | .c1 => 1
  | .c2 => 2
  | .c3 => 3
  | .ev => 0

/-- The rows of the opcode map (R94). -/
inductive Opcode where
  | encode | start | retune | chStop
  | spkInit | spkSetFreq | spkSetVol | spkSetWave | spkPlay | spkStop
  | spkGetFreq | spkGetVol | spkIsPlaying
  | evTick | evAlarm
deriving DecidableEq, Repr

/-- The opcode map's number of each row (R94). -/
def Opcode.code : Opcode → BitVec 8
  | .encode => 0x01
  | .start => 0x02
  | .retune => 0x03
  | .chStop => 0x04
  | .spkInit => 0x10
  | .spkSetFreq => 0x11
  | .spkSetVol => 0x12
  | .spkSetWave => 0x13
  | .spkPlay => 0x14
  | .spkStop => 0x15
  | .spkGetFreq => 0x16
  | .spkGetVol => 0x17
  | .spkIsPlaying => 0x18
  | .evTick => 0x20
  | .evAlarm => 0x21

/-- The opcode map's format of each row (R94). -/
def Opcode.format : Opcode → Format
  | .encode => .c2
  | .start => .c3
  | .retune => .c2
  | .chStop => .c0
  | .spkInit => .c3
  | .spkSetFreq => .c1
  | .spkSetVol => .c1
  | .spkSetWave => .c1
  | .spkPlay => .c1
  | .spkStop => .c0
  | .spkGetFreq => .c0
  | .spkGetVol => .c0
  | .spkIsPlaying => .c0
  | .evTick => .ev
  | .evAlarm => .ev

/-- Every row of the opcode map. -/
def Opcode.all : List Opcode :=
  [.encode, .start, .retune, .chStop, .spkInit, .spkSetFreq, .spkSetVol, .spkSetWave, .spkPlay, .spkStop,
    .spkGetFreq, .spkGetVol, .spkIsPlaying, .evTick, .evAlarm]

/-- The row a value of `OPC` selects, if the map has it (R94, R95 item 1). -/
def Opcode.ofCode (opc : BitVec 8) : Option Opcode := Opcode.all.find? fun o => o.code == opc

/-- `CMD[7:0]` (R81). -/
def cmdOpc (cmd : Word) : BitVec 8 := cmd.extractLsb' 0 8

/-- `CMD[15:8]` (R81). -/
def cmdTgt (cmd : Word) : BitVec 8 := cmd.extractLsb' 8 8

/-- `CMD[31:16]` (R81). -/
def cmdRsvd (cmd : Word) : BitVec 16 := cmd.extractLsb' 16 16

/-- How many operand words follow a command word: its opcode's format, none for an unknown opcode (R82). -/
def operandCount (cmd : Word) : Nat :=
  match Opcode.ofCode (cmdOpc cmd) with
  | some o => o.format.operandCount
  | none => 0

/-- Why a transaction is ILLEGAL by its words alone (R95). -/
inductive DecodeError where
  /-- Item 1: `OPC` is not in the map. -/
  | unknownOpcode
  /-- Item 2: `RSVD` is not 0. -/
  | reservedCommandBits
  /-- Item 3: ENCODE with `TGT` not 0. -/
  | encodeTarget
  /-- Item 6: SPK_INIT with `A0[31:9]` not 0. -/
  | reservedInitBits
  /-- Item 7: SPK_SET_WAVE with `A0[31:8]` not 0. -/
  | reservedWaveBits
deriving DecidableEq, Repr

/-- The operation a known opcode's transaction is, once `RSVD` is checked; operand words past the opcode's
format are not read (R82). -/
def decodeAs (o : Opcode) (tgt : BitVec 8) (a0 a1 a2 : Word) : Except DecodeError Instr :=
  match o with
  | .encode => if tgt = 0 then .ok (.encode a0 a1) else .error .encodeTarget
  | .start => .ok (.start tgt a0 a1 a2)
  | .retune => .ok (.retune tgt a0 a1)
  | .chStop => .ok (.chStop tgt)
  | .spkInit =>
    if a0.extractLsb' 9 23 = 0 then
      .ok (.spkInit tgt (a0.extractLsb' 0 8) (a0.getLsbD 8) a1 a2)
    else .error .reservedInitBits
  | .spkSetFreq => .ok (.spkSetFreq tgt a0)
  | .spkSetVol => .ok (.spkSetVol tgt a0)
  | .spkSetWave =>
    if a0.extractLsb' 8 24 = 0 then .ok (.spkSetWave tgt (a0.extractLsb' 0 8))
    else .error .reservedWaveBits
  | .spkPlay => .ok (.spkPlay tgt a0)
  | .spkStop => .ok (.spkStop tgt)
  | .spkGetFreq => .ok (.spkGetFreq tgt)
  | .spkGetVol => .ok (.spkGetVol tgt)
  | .spkIsPlaying => .ok (.spkIsPlaying tgt)
  | .evTick => .ok (.evTick tgt)
  | .evAlarm => .ok (.evAlarm tgt)

/-- The operation a transaction's command word and operand words carry, or the first of the checks of R95
items 1 to 3, 6 and 7 that they fail. -/
def decode (cmd a0 a1 a2 : Word) : Except DecodeError Instr :=
  match Opcode.ofCode (cmdOpc cmd) with
  | none => .error .unknownOpcode
  | some o =>
    if cmdRsvd cmd = 0 then decodeAs o (cmdTgt cmd) a0 a1 a2 else .error .reservedCommandBits

/-- The row of the opcode map an operation is. -/
def Instr.opcode : Instr → Opcode
  | .encode _ _ => .encode
  | .start _ _ _ _ => .start
  | .retune _ _ _ => .retune
  | .chStop _ => .chStop
  | .spkInit _ _ _ _ _ => .spkInit
  | .spkSetFreq _ _ => .spkSetFreq
  | .spkSetVol _ _ => .spkSetVol
  | .spkSetWave _ _ => .spkSetWave
  | .spkPlay _ _ => .spkPlay
  | .spkStop _ => .spkStop
  | .spkGetFreq _ => .spkGetFreq
  | .spkGetVol _ => .spkGetVol
  | .spkIsPlaying _ => .spkIsPlaying
  | .evTick _ => .evTick
  | .evAlarm _ => .evAlarm

/-- An operation's `TGT`: its pin or slot, 0 for ENCODE (R94). -/
def Instr.target : Instr → BitVec 8
  | .encode _ _ => 0
  | .start p _ _ _ => p
  | .retune p _ _ => p
  | .chStop p => p
  | .spkInit v _ _ _ _ => v
  | .spkSetFreq v _ => v
  | .spkSetVol v _ => v
  | .spkSetWave v _ => v
  | .spkPlay v _ => v
  | .spkStop v => v
  | .spkGetFreq v => v
  | .spkGetVol v => v
  | .spkIsPlaying v => v
  | .evTick v => v
  | .evAlarm p => p

/-- A command word (R81): `OPC` in bits 7:0, `TGT` in bits 15:8, `RSVD` 0. -/
def commandWord (o : Opcode) (tgt : BitVec 8) : Word := tgt.setWidth 32 <<< 8 ||| o.code.setWidth 32

/-- SPK_INIT's `A0` (R91): the pin in bits 7:0, the core affinity in bit 8, the rest 0. -/
def initWord (pin : PinId) (aff : Bool) : Word := (BitVec.ofBool aff).setWidth 32 <<< 8 ||| pin.setWidth 32

/-- An operation's operand words, as many as its format names (R82, R91, R92). -/
def Instr.operands : Instr → List Word
  | .encode fq duty => [fq, duty]
  | .start _ fq duty dur => [fq, duty, dur]
  | .retune _ fq duty => [fq, duty]
  | .chStop _ => []
  | .spkInit _ p aff fq vol => [initWord p aff, fq, vol]
  | .spkSetFreq _ fq => [fq]
  | .spkSetVol _ vol => [vol]
  | .spkSetWave _ w => [w.setWidth 32]
  | .spkPlay _ dur => [dur]
  | .spkStop _ => []
  | .spkGetFreq _ => []
  | .spkGetVol _ => []
  | .spkIsPlaying _ => []
  | .evTick _ => []
  | .evAlarm _ => []

/-- The command word of an operation (R81). -/
def Instr.command (i : Instr) : Word := commandWord i.opcode i.target

/-- The words of an operation's transaction, in the order R80 writes them. -/
def encode (i : Instr) : List Word := i.command :: i.operands

/-- The decoder on a list of words: the command word and up to three operand words, a missing word read as
0; further words are not read. -/
def decodeWords (ws : List Word) : Except DecodeError Instr :=
  decode (ws.getD 0 0) (ws.getD 1 0) (ws.getD 2 0) (ws.getD 3 0)

/-- Word `k` of a number whose bit 0 is the least significant bit of the first word. -/
def tableWord (w k : Nat) : Word := BitVec.ofNat 32 (w >>> (32 * k))

/-- The operation the decoder reads from a transaction whose bits are `w`, the command word in bits 31:0
and the operand words above it, every bit from `nbits` up being 0. -/
def decodeTableWord (nbits w : Nat) : Option Instr :=
  let v := w % 2 ^ nbits
  match decode (tableWord v 0) (tableWord v 1) (tableWord v 2) (tableWord v 3) with
  | .ok i => some i
  | .error _ => none

end Sys2Proof
end

