-- ==== Sys2Proof/Machine/Fetch.lean ====
section
/-! DEFINITION. Taking the next transaction from the command port (R80, R82) and placing one on it. -/

namespace Sys2Proof.Machine

/-- The operand latches and the environment's inputs as transaction `t` sets them: the latches its format
names get its operand words, the others keep theirs (R20, R82). -/
def State.latch (s : State) (t : Transaction) : State :=
  let n := operandCount t.cmd
  { s with
    a0 := if 0 < n then t.a0 else s.a0
    a1 := if 1 < n then t.a1 else s.a1
    a2 := if 2 < n then t.a2 else s.a2
    env := t.env }

/-- The state in which the operation of transaction `t` runs, `rest` being the transactions after it. -/
def State.accept (s : State) (t : Transaction) (rest : List Transaction) : State :=
  { s.latch t with inbox := rest }

/-- The operation the port holds: the command word of `t` and the latched operand words, decoded. -/
def State.fetched (s : State) (t : Transaction) : Except DecodeError Instr :=
  decode t.cmd s.a0 s.a1 s.a2

/-- The transaction whose bits are `w`, the command word in bits 31:0, every bit from `nbits` up being 0. -/
def tableTransaction (nbits w : Nat) (e : Env) : Transaction :=
  let v := w % 2 ^ nbits
  { cmd := tableWord v 0, a0 := tableWord v 1, a1 := tableWord v 2, a2 := tableWord v 3, env := e }

/-- The transaction that carries operation `i` with the environment's inputs `e` (R80). -/
def transactionOf (i : Instr) (e : Env) : Transaction :=
  { cmd := i.command, a0 := i.operands.getD 0 0, a1 := i.operands.getD 1 0, a2 := i.operands.getD 2 0,
    env := e }

end Sys2Proof.Machine
end

