-- ==== Sys2Proof/Machine/Step.lean ====
section
/-! DEFINITION. One step of TONEBLK: the next transaction of the total order of R67, decoded and executed as
one atomic operation (R13). -/

namespace Sys2Proof.Machine

/-- One step. A configuration that breaks R6 or R7 is refused (R7, I8). With no transaction waiting nothing
happens (log entry 6). A transaction whose words are no legal encoding is ILLEGAL (R95, R96); every other is
executed. -/
def step (s : State) : Host.Outcome State Fault Refusal :=
  if configLegal s.cfg then
    match s.inbox with
    | [] => .next s
    | t :: rest =>
      let s1 := s.accept t rest
      match s1.fetched t with
      | .ok i => exec i s1
      | .error _ => .next s1.illegal
  else .refused .illegalConfiguration

/-- `s` with the transaction whose bits are `w` first on the port, so that the next step executes it (log
entry 12). -/
def State.withFetchWord (s : State) (nbits w : Nat) : State :=
  { s with inbox := tableTransaction nbits w s.env :: s.inbox }

end Sys2Proof.Machine
end

