-- ==== Sys2Proof/Machine/Assembly.lean ====
section
/-! DEFINITION. The assembly syntax (R98) and the pseudo-instructions (R99): from a line of text to the words
of its one transaction. No step of the machine reads any of it. -/

namespace Sys2Proof.Machine

/-- A number as it is written (R98), `neg` where a minus sign stands before it. A decimal with `digits`
places after the point is `mantissa / 10^digits`. -/
inductive Literal where
  /-- A raw value: a decimal, or a hexadecimal, which has no sign. -/
  | raw (neg : Bool) (n : Nat)
  /-- `<x>Hz`. -/
  | hertz (neg : Bool) (mantissa digits : Nat)
  /-- `<x>` written with a decimal point. -/
  | point (neg : Bool) (mantissa digits : Nat)
deriving DecidableEq, Repr

/-- What an operand position holds, which says the sugar it takes (R98). -/
inductive Position where
  | target | frequency | unit | plain
deriving DecidableEq, Repr

/-- `x · scale` for the decimal `x`, refused when the product is no integer (R98). -/
def sugarValue (mantissa digits scale : Nat) : Option Nat :=
  if mantissa * scale % 10 ^ digits = 0 then some (mantissa * scale / 10 ^ digits) else none

/-- The word of a value that fits one: a negative value's is its two's complement (R98). -/
def valueWord (neg : Bool) (n : Nat) : Option Word :=
  if neg then if n ≤ 2 ^ 31 then some (BitVec.ofInt 32 (-(n : Int))) else none
  else if n < 2 ^ 32 then some (BitVec.ofNat 32 n) else none

/-- The word a literal stands for in a position (R98). -/
def Literal.word (pos : Position) : Literal → Option Word
  | .raw neg n => valueWord neg n
  | .hertz neg m k => if pos = .frequency then (sugarValue m k 256).bind (valueWord neg) else none
  | .point neg m k => if pos = .unit then (sugarValue m k 65536).bind (valueWord neg) else none

/-- The operand positions of an opcode, after `TGT` (R94). -/
def opcodePositions : Opcode → List Position
  | .encode => [.frequency, .unit]
  | .start => [.frequency, .unit, .plain]
  | .retune => [.frequency, .unit]
  | .spkInit => [.plain, .frequency, .unit]
  | .spkSetFreq => [.frequency]
  | .spkSetVol => [.unit]
  | .spkSetWave => [.plain]
  | .spkPlay => [.plain]
  | .chStop | .spkStop | .spkGetFreq | .spkGetVol | .spkIsPlaying | .evTick | .evAlarm => []

/-- The mnemonic of an opcode (R94). -/
def opcodeMnemonic : Opcode → String
  | .encode => "ENCODE"
  | .start => "START"
  | .retune => "RETUNE"
  | .chStop => "CH_STOP"
  | .spkInit => "SPK_INIT"
  | .spkSetFreq => "SPK_SET_FREQ"
  | .spkSetVol => "SPK_SET_VOL"
  | .spkSetWave => "SPK_SET_WAVE"
  | .spkPlay => "SPK_PLAY"
  | .spkStop => "SPK_STOP"
  | .spkGetFreq => "SPK_GET_FREQ"
  | .spkGetVol => "SPK_GET_VOL"
  | .spkIsPlaying => "SPK_IS_PLAYING"
  | .evTick => "EV_TICK"
  | .evAlarm => "EV_ALARM"

/-- The words of the literals in their positions, if there are as many of the one as of the other. -/
def literalWords : List Position → List Literal → Option (List Word)
  | [], [] => some []
  | pos :: ps, l :: ls =>
    match l.word pos, literalWords ps ls with
    | some w, some ws => some (w :: ws)
    | _, _ => none
  | _, _ => none

/-- A `TGT` value: 0 to 255, raw (R81). -/
def targetValue : Literal → Option (BitVec 8)
  | .raw false n => if n < 2 ^ 8 then some (BitVec.ofNat 8 n) else none
  | _ => none

/-- The words of an opcode's line: `TGT` (omitted for ENCODE), then the operand words (R98). -/
def assembleOpcode (o : Opcode) (args : List Literal) : Option (List Word) :=
  match o, args with
  | .encode, ls => (literalWords (opcodePositions .encode) ls).map fun ws =>
    commandWord .encode 0 :: ws
  | o, t :: ls =>
    match targetValue t, literalWords (opcodePositions o) ls with
    | some tgt, some ws => some (commandWord o tgt :: ws)
    | _, _ => none
  | _, [] => none

/-- The pseudo-instructions (R99). -/
inductive Pseudo where
  | tone | notone | updtone | speaker | play
deriving DecidableEq, Repr

/-- The one transaction a pseudo-instruction expands to (R99): its opcode and that opcode's literals. -/
def Pseudo.expand : Pseudo → List Literal → Option (Opcode × List Literal)
  | .tone, [pin, fq, dur, duty] => some (.start, [pin, fq, duty, dur])
  | .notone, [pin] => some (.chStop, [pin])
  | .updtone, [pin, fq, duty] => some (.retune, [pin, fq, duty])
  | .speaker, [slot, .raw false pin, .raw false core, fq, vol] =>
    some (.spkInit, [slot, .raw false (pin ||| core <<< 8), fq, vol])
  | .play, [slot] => some (.spkPlay, [slot, .raw false 0])
  | _, _ => none

/-- The name of a pseudo-instruction (R99). -/
def Pseudo.mnemonic : Pseudo → String
  | .tone => "TONE"
  | .notone => "NOTONE"
  | .updtone => "UPDTONE"
  | .speaker => "SPEAKER"
  | .play => "PLAY"

/-- The words of a mnemonic with its literals, an opcode's (R98) or a pseudo-instruction's (R99). -/
def assembleLine (name : List Char) (args : List Literal) : Option (List Word) :=
  match Opcode.all.find? fun o => (opcodeMnemonic o).toList == name with
  | some o => assembleOpcode o args
  | none =>
    match [Pseudo.tone, .notone, .updtone, .speaker, .play].find? fun q => q.mnemonic.toList == name with
    | some q => (q.expand args).bind fun r => assembleOpcode r.1 r.2
    | none => none

/-- The value of a digit, decimal or hexadecimal. -/
def digitValue (base : Nat) (ch : Char) : Option Nat :=
  let n := ch.toNat
  let v :=
    if 48 ≤ n ∧ n ≤ 57 then n - 48
    else if 97 ≤ n ∧ n ≤ 102 then n - 87
    else if 65 ≤ n ∧ n ≤ 70 then n - 55
    else base
  if v < base then some v else none

/-- The number some digits write after the value `acc`. -/
def digitsValue (base : Nat) : Nat → List Char → Option Nat
  | acc, [] => some acc
  | acc, ch :: cs =>
    match digitValue base ch with
    | some d => digitsValue base (acc * base + d) cs
    | none => none

/-- The number a non-empty run of digits writes. -/
def numberValue (base : Nat) (cs : List Char) : Option Nat :=
  if cs = [] then none else digitsValue base 0 cs

/-- A decimal: its mantissa and how many digits stand after the point, `none` where there is no point. -/
def decimalValue (cs : List Char) : Option (Nat × Option Nat) :=
  let whole := cs.takeWhile (· != '.')
  let rest := cs.drop whole.length
  match rest with
  | [] => (numberValue 10 whole).map fun n => (n, none)
  | _ :: frac =>
    match numberValue 10 whole, numberValue 10 frac with
    | some _, some _ => (numberValue 10 (whole ++ frac)).map fun n => (n, some frac.length)
    | _, _ => none

/-- The literal some characters after the sign write (R98). -/
def unsignedLiteral (neg : Bool) (cs : List Char) : Option Literal :=
  match cs.reverse with
  | 'z' :: 'H' :: body => (decimalValue body.reverse).map fun r => .hertz neg r.1 (r.2.getD 0)
  | _ =>
    (decimalValue cs).map fun r =>
      match r.2 with
      | some k => .point neg r.1 k
      | none => .raw neg r.1

/-- The literal some characters write (R98). -/
def literalOf (cs : List Char) : Option Literal :=
  match cs with
  | '0' :: 'x' :: hex => (numberValue 16 hex).map (Literal.raw false)
  | '-' :: rest => unsignedLiteral true rest
  | _ => unsignedLiteral false cs

/-- The characters between commas, spaces dropped. -/
def splitCommas : List Char → List (List Char)
  | [] => [[]]
  | ch :: cs =>
    if ch = ' ' then splitCommas cs
    else if ch = ',' then [] :: splitCommas cs
    else
      match splitCommas cs with
      | [] => [[ch]]
      | head :: tail => (ch :: head) :: tail

/-- The literals of the operand part of a line; an empty part has none. -/
def literalsOf (cs : List Char) : Option (List Literal) :=
  let parts := splitCommas cs
  if parts = [[]] then some [] else parts.mapM literalOf

/-- The words of one line of assembly text: the mnemonic up to the first space, then the operands (R98). -/
def assemble (line : List Char) : Option (List Word) :=
  let name := line.takeWhile (· != ' ')
  (literalsOf (line.drop name.length)).bind (assembleLine name)

end Sys2Proof.Machine
end

