-- ==== Sys2Proof/Safety.lean ====
section
/-! DEFINITION. The terms the statements use: what an operation leaves unchanged, what its response is, what
is ILLEGAL, and the invariants of R47 and of the fields' legal values. -/

namespace Sys2Proof.Machine

/-- The port, the environment's inputs and the configuration are as before. -/
def SamePort (s t : State) : Prop :=
  t.cfg = s.cfg ∧ t.a0 = s.a0 ∧ t.a1 = s.a1 ∧ t.a2 = s.a2 ∧ t.inbox = s.inbox ∧ t.env = s.env

/-- Every channel record but that of pin `p` is as before. -/
def SamePinsBut (p : PinId) (s t : State) : Prop := ∀ q, q ≠ p → t.pin q = s.pin q

/-- Every channel record is as before. -/
def SamePins (s t : State) : Prop := ∀ q, t.pin q = s.pin q

/-- Every Speaker record but that of slot `v` is as before. -/
def SameSlotsBut (v : SlotId) (s t : State) : Prop := ∀ u, u ≠ v → t.slot u = s.slot u

/-- Every Speaker record is as before. -/
def SameSlots (s t : State) : Prop := ∀ u, t.slot u = s.slot u

/-- No record, no call and no port field changes: all an operation without effect may write is the response
(R93 `NOOP`, R96, R159). -/
def OnlyResponds (s t : State) : Prop :=
  SamePort s t ∧ SamePins s t ∧ SameSlots s t ∧ t.trace = s.trace ∧ t.freeCount = s.freeCount

/-- The response latches hold a status and two result words (R83). -/
def Responds (st : Status) (res0 res1 : Word) (t : State) : Prop :=
  t.status = st.word ∧ t.res0 = res0 ∧ t.res1 = res1

/-- `calls` are the calls made between `s` and `t`, in order (R258). -/
def Calls (s t : State) (calls : List Call) : Prop := t.trace = s.trace ++ calls

/-- The operation codes of the map, with the number of each (R94). -/
def opcodeNumbers : List Nat :=
  [0x01, 0x02, 0x03, 0x04, 0x10, 0x11, 0x12, 0x13, 0x14, 0x15, 0x16, 0x17, 0x18, 0x20, 0x21]

/-- The eight conditions of R95, read off the raw words of a transaction as numbers. -/
def IllegalTransaction (s : State) (t : Transaction) : Prop :=
  let opc := t.cmd.toNat % 256
  let tgt := t.cmd.toNat / 256 % 256
  let rsvd := t.cmd.toNat / 65536
  let slot := s.slot (BitVec.ofNat 8 tgt)
  opc ∉ opcodeNumbers ∨
  rsvd ≠ 0 ∨
  (opc = 0x01 ∧ tgt ≠ 0) ∨
  (opc ∈ [0x02, 0x03, 0x04, 0x21] ∧ s.cfg.nPins ≤ tgt) ∨
  ((0x10 ≤ opc ∧ opc ≤ 0x18 ∨ opc = 0x20) ∧ s.cfg.nSlots ≤ tgt) ∨
  (opc = 0x10 ∧ (t.a0.toNat / 512 ≠ 0 ∨ s.cfg.nPins ≤ t.a0.toNat % 256)) ∨
  (opc = 0x13 ∧ (t.a0.toNat / 256 ≠ 0 ∨ s.cfg.waves.length ≤ t.a0.toNat % 256)) ∨
  ((0x11 ≤ opc ∧ opc ≤ 0x18 ∨ opc = 0x20) ∧ slot.valid = false) ∨
  (opc = 0x10 ∧ (slot.valid = true ∨ t.a1.toInt ≤ 0))

/-- R47 for one pin: a bound channel is enabled, and an alarm is pending only on a bound pin. -/
def PinConsistent (r : PinRec) : Prop :=
  (r.bound = true → r.hwen = true) ∧ (r.alarmPend = true → r.bound = true)

/-- R47 for one slot of a block configured by `c`. -/
def SlotConsistent (c : Config) (r : SlotRec) : Prop :=
  r.valid = true →
    r.playing = r.tmrReg ∧
    (r.playing = false → r.dlValid = false) ∧
    0 < r.freq.toInt ∧
    r.vol.toNat ≤ 65536 ∧
    r.scale.toNat = volLaw c r.vol.toNat ∧
    r.period.toNat = stepPeriod c (waveSize c r.wave) r.freq.toInt

/-- The invariants of R47, for every pin and every slot. -/
def RecordsConsistent (s : State) : Prop :=
  (∀ p, PinConsistent (s.pin p)) ∧ (∀ v, SlotConsistent s.cfg (s.slot v))

/-- The legal values of R24 and R26 for one pin: a bound pin's handle is below `N_CHANNELS` and its divisor is
one that Encode returns. -/
def PinInRange (c : Config) (r : PinRec) : Prop :=
  r.bound = true → r.handle < c.nChannels ∧ 256 ≤ r.lastcd.toNat ∧ r.lastcd.toNat ≤ 16777216

/-- The legal values of R30 and R32 to R37 for one slot: its pin and waveforms exist, its frequency is positive,
its volume and duty scale are at most 1, and its step period is at least 1. -/
def SlotInRange (c : Config) (r : SlotRec) : Prop :=
  r.valid = true →
    r.pin.toNat < c.nPins ∧
    r.wave.toNat < c.waves.length ∧
    (r.pendValid = true → r.pend.toNat < c.waves.length) ∧
    0 < r.freq.toInt ∧
    r.vol.toNat ≤ 65536 ∧
    r.scale.toNat ≤ 65536 ∧
    1 ≤ r.period.toNat

/-- No two bound pins hold one handle (R158). -/
def HandlesDistinct (s : State) : Prop :=
  ∀ p q, (s.pin p).bound = true → (s.pin q).bound = true → (s.pin p).handle = (s.pin q).handle → p = q

/-- Every field that the spec gives a range narrower than its width holds a value of that range, on each bound
pin (`HANDLE`, `LASTCD`) and each constructed slot (`PIN`, `WAVE`, `PEND` while a swap is pending, `FREQ`,
`VOL`, `SCALE`, `PERIOD`), and no channel is bound twice. -/
def RecordsInRange (s : State) : Prop :=
  (∀ p, PinInRange s.cfg (s.pin p)) ∧ (∀ v, SlotInRange s.cfg (s.slot v)) ∧ HandlesDistinct s

/-- The record as every rule but R31 sees it: the core affinity erased (R194). -/
def SlotRec.eraseAff (r : SlotRec) : SlotRec := { r with aff := false }

/-- The state with every slot's core affinity erased (R194). -/
def State.eraseAff (s : State) : State := { s with slots := s.slots.map SlotRec.eraseAff }

/-- The state after one EV_TICK of slot `v` under each of the given environment inputs in turn, if every one
gives a next state. -/
def ticks (v : SlotId) : List Env → State → Option State
  | [], s => some s
  | e :: es, s =>
    match exec (.evTick v) { s with env := e } with
    | .next t => ticks v es t
    | _ => none

end Sys2Proof.Machine
end

