-- ==== Sys2Proof/WellFormed.lean ====
section
/-! DEFINITION. When an operation's fields are legal for a configuration: items 4 to 7 of R95, the checks
that need no state. Items 1 to 3 and the reserved operand bits are the decoder's; item 8 needs the slot. -/

namespace Sys2Proof

namespace Instr

/-- R95 items 4 to 7: the pin, the slot and the waveform index an operation names exist in `c`. ENCODE
names none. -/
def wf (c : Config) : Instr → Bool
  | .encode _ _ => true
  | .start p _ _ _ => decide (p.toNat < c.nPins)
  | .retune p _ _ => decide (p.toNat < c.nPins)
  | .chStop p => decide (p.toNat < c.nPins)
  | .spkInit v p _ _ _ => decide (v.toNat < c.nSlots) && decide (p.toNat < c.nPins)
  | .spkSetFreq v _ => decide (v.toNat < c.nSlots)
  | .spkSetVol v _ => decide (v.toNat < c.nSlots)
  | .spkSetWave v w => decide (v.toNat < c.nSlots) && decide (w.toNat < c.waves.length)
  | .spkPlay v _ => decide (v.toNat < c.nSlots)
  | .spkStop v => decide (v.toNat < c.nSlots)
  | .spkGetFreq v => decide (v.toNat < c.nSlots)
  | .spkGetVol v => decide (v.toNat < c.nSlots)
  | .spkIsPlaying v => decide (v.toNat < c.nSlots)
  | .evTick v => decide (v.toNat < c.nSlots)
  | .evAlarm p => decide (p.toNat < c.nPins)

end Instr

end Sys2Proof
end

