-- ==== Sys2Proof/Certificates/Slice0/Obligations.lean ====
section
/-! DEFINITION. The statements about the model, each after the rule of spec/ that it formalises or rests on. -/

open Sys2Proof Sys2Proof.Machine

/-! ### The port: encoding, decoding, one step -/

/-- R80 to R82, R91, R92, R94: the decoder reads back every operation from its words, and the transaction has
exactly the words its format names, whatever follows it. -/
def Obligations.DecodeInvertsEncode : Prop :=
  ∀ (i : Instr) (extra : List Word),
    decodeWords (encode i ++ extra) = .ok i ∧ (encode i).length = 1 + operandCount i.command

/-- The other direction: each transaction that decodes is the encoding of what it decodes to. -/
def Obligations.DecodedWordsAreTheEncoding : Prop :=
  ∀ (cmd a0 a1 a2 : Word) (i : Instr), decode cmd a0 a1 a2 = .ok i →
    i.command = cmd ∧ i.operands = [a0, a1, a2].take (operandCount cmd)

/-- R94, R95 items 1 to 3, 6 and 7 on reserved bits: which command words select which opcode. -/
def Obligations.CommandWordSelectsOpcode : Prop :=
  ∀ (cmd a0 a1 a2 : Word) (o : Opcode),
    (∃ i, decode cmd a0 a1 a2 = .ok i ∧ i.opcode = o) ↔
      cmd.toNat % 256 = o.code.toNat ∧ cmd.toNat / 65536 = 0 ∧
      (o = .encode → cmd.toNat / 256 = 0) ∧
      (o = .spkInit → a0.toNat / 512 = 0) ∧
      (o = .spkSetWave → a0.toNat / 256 = 0)

/-- Words written out in spec/95_test_vectors.md (P1, P2, P3 and V-X) and what they stand for. -/
def Obligations.WrittenOutWordsDecode : Prop :=
  decode 0x00000001 0x00037000 0x00008000 0 = .ok (.encode 0x00037000 0x00008000) ∧
  decode 0x00000802 0x0001B800 0x00008000 0x00000064 = .ok (.start 8 0x0001B800 0x00008000 100) ∧
  decode 0x00000821 0 0 0 = .ok (.evAlarm 8) ∧
  decode 0x00000110 0x0000000A 0x0001B800 0x00008000 = .ok (.spkInit 1 10 false 0x0001B800 0x00008000) ∧
  decode 0x00000114 0x000003E8 0 0 = .ok (.spkPlay 1 1000) ∧
  decode 0x00000120 0 0 0 = .ok (.evTick 1) ∧
  decode 0x00010004 0 0 0 = .error .reservedCommandBits ∧
  decode 0x00000005 0 0 0 = .error .unknownOpcode

/-- R13, R80: a step executes the decoded operation in the state the port sets up: the transaction taken off
the port, the operand latches its format names written, its environment inputs in place, all else as before.
That the other latches keep their words is the model's reading (log entry 3). -/
def Obligations.StepRunsDecodedInstruction : Prop :=
  ∀ (s : State) (t : Transaction) (rest : List Transaction) (i : Instr),
    configLegal s.cfg = true → s.inbox = t :: rest → decode t.cmd t.a0 t.a1 t.a2 = .ok i →
    ∃ u, step s = exec i u ∧
      u.inbox = rest ∧ u.env = t.env ∧ u.cfg = s.cfg ∧ SamePins s u ∧ SameSlots s u ∧
      u.trace = s.trace ∧ u.freeCount = s.freeCount ∧
      u.status = s.status ∧ u.res0 = s.res0 ∧ u.res1 = s.res1 ∧
      u.a0 = (if 0 < operandCount t.cmd then t.a0 else s.a0) ∧
      u.a1 = (if 1 < operandCount t.cmd then t.a1 else s.a1) ∧
      u.a2 = (if 2 < operandCount t.cmd then t.a2 else s.a2)

/-- R96 (with the conditions of R95): an ILLEGAL transaction changes no state, makes no call and answers
`0x0000000F, 0, 0`, and the next transaction is next. All that the port itself does is take the transaction:
the latches hold the operand words the issuer wrote, which is the model's reading (log entry 3), and its
environment inputs are in place (log entry 7). -/
def Obligations.IllegalTransactionOnlyAnswers : Prop :=
  ∀ (s : State) (t : Transaction) (rest : List Transaction),
    configLegal s.cfg = true → s.inbox = t :: rest → IllegalTransaction s t →
    ∃ u, step s = .next u ∧
      u.status = 0x0000000F ∧ u.res0 = 0 ∧ u.res1 = 0 ∧
      u.cfg = s.cfg ∧ SamePins s u ∧ SameSlots s u ∧ u.trace = s.trace ∧ u.freeCount = s.freeCount ∧
      u.inbox = rest ∧ u.env = t.env ∧
      u.a0 = (if 0 < operandCount t.cmd then t.a0 else s.a0) ∧
      u.a1 = (if 1 < operandCount t.cmd then t.a1 else s.a1) ∧
      u.a2 = (if 2 < operandCount t.cmd then t.a2 else s.a2)

/-- R95: a transaction is answered with `ILLEGAL` exactly when one of the eight conditions holds. -/
def Obligations.IllegalStatusExactlyWhenIllegal : Prop :=
  ∀ (s u : State) (t : Transaction) (rest : List Transaction),
    configLegal s.cfg = true → s.inbox = t :: rest → step s = .next u →
    (u.status = 0x0000000F ↔ IllegalTransaction s t)

/-- R95 items 4 to 7, R96: an operation that names a pin, slot or waveform the block has not is ILLEGAL. -/
def Obligations.IllFormedOperationIsIllegal : Prop :=
  ∀ (i : Instr) (s : State), i.wf s.cfg = false →
    ∃ t, exec i s = .next t ∧ Responds .illegal 0 0 t ∧ OnlyResponds s t

/-- The model's choice, not a rule (log entry 6): with no transaction on the port a step changes nothing. -/
def Obligations.IdlePortChangesNothing : Prop :=
  ∀ s : State, configLegal s.cfg = true → s.inbox = [] → step s = .next s

/-- R7 and I8 say that a model refuses a configuration that breaks a constraint. That the step is what refuses
it, and that it refuses for R6's ranges as well, is the model's choice (log entry 9), and so is that a format
other than those of R84 to R87 is refused (log entry 10). -/
def Obligations.IllegalConfigurationIsRefused : Prop :=
  ∀ s : State,
    (s.cfg.sysclkHz = 0 ∨ 2 ^ 32 ≤ s.cfg.sysclkHz ∨
     s.cfg.freqFB ≠ 8 ∨ s.cfg.dutyFB ≠ 16 ∨ s.cfg.clkdivFB ≠ 8 ∨
     s.cfg.nPins = 0 ∨ 256 < s.cfg.nPins ∨ s.cfg.nSlots = 0 ∨ 256 < s.cfg.nSlots ∨
     s.cfg.waves.length ≤ s.cfg.defaultWave ∨ 256 < s.cfg.waves.length ∨
     (∃ bytes, Wave.table bytes ∈ s.cfg.waves ∧ ∀ k ≤ 8, bytes.length ≠ 2 ^ k) ∨
     2 ^ 31 ≤ s.cfg.carrierHz * 2 ^ s.cfg.freqFB) →
    step s = .refused .illegalConfiguration

/-- R250, R83, R93: every operation answers with a next state whose status is one of the codes of R93, `0x06`
never among them (R131), and no step of a legal configuration stops the block. -/
def Obligations.EveryOperationAnswersWithAStatus : Prop :=
  (∀ (i : Instr) (s : State),
    ∃ t, exec i s = .next t ∧ t.status.toNat ∈ [0x00, 0x01, 0x02, 0x03, 0x04, 0x05, 0x07, 0x08, 0x0F]) ∧
  (∀ s : State, configLegal s.cfg = true → ∃ t, step s = .next t)

/-- R48, R67: no operation changes a parameter, the catalogue or the port, and its calls follow those of every
earlier operation in the trace. -/
def Obligations.OperationsOnlyAppendCalls : Prop :=
  ∀ (i : Instr) (s t : State), exec i s = .next t → SamePort s t ∧ ∃ calls, Calls s t calls

/-- R98: a line that writes an operation's target and operand words as raw values, `TGT` omitted for ENCODE,
assembles to the operation's words. -/
def Obligations.AssembledOperationIsItsEncoding : Prop :=
  ∀ i : Instr,
    let target : List Literal := if i.opcode = .encode then [] else [.raw false i.target.toNat]
    assembleOpcode i.opcode (target ++ i.operands.map fun w => .raw false w.toNat) = some (encode i)

/-- R99: each pseudo-instruction expands to its one transaction. -/
def Obligations.PseudoInstructionsExpand : Prop :=
  let line := fun name : String => assembleLine name.toList
  (∀ pin fq dur duty, line "TONE" [pin, fq, dur, duty] = line "START" [pin, fq, duty, dur]) ∧
  (∀ pin, line "NOTONE" [pin] = line "CH_STOP" [pin]) ∧
  (∀ pin fq duty, line "UPDTONE" [pin, fq, duty] = line "RETUNE" [pin, fq, duty]) ∧
  (∀ slot (pin core : Nat) fq vol,
    line "SPEAKER" [slot, .raw false pin, .raw false core, fq, vol] =
      line "SPK_INIT" [slot, .raw false (pin ||| core <<< 8), fq, vol]) ∧
  (∀ slot, line "PLAY" [slot] = line "SPK_PLAY" [slot, .raw false 0])

/-! ### The encoder -/

/-- R120 to R128: what ENCODE answers, for the numbers `D`, `REQ`, `CD`, `TOTAL`, `X` and `HIGH` that the
steps' ratios determine, each given by the bounds its rounding means. -/
def Obligations.EncodeCommandAnswersItsSteps : Prop :=
  ∀ (s : State) (fq duty : Word), s.cfg.FormatsLegal →
    ∃ t, exec (.encode fq duty) s = .next t ∧ OnlyResponds s t ∧
    (fq.toInt ≤ 0 → Responds .rejFreqNonpos 0 0 t) ∧
    ∀ f D REQ CD TOTAL : Nat, 0 < f → fq.toInt = f →
      (duty.toInt < 0 ∧ D = 0 ∨ 0 ≤ duty.toInt ∧ duty.toInt ≤ 65536 ∧ duty.toInt = D ∨
        65536 < duty.toInt ∧ D = 65536) →
      2 * f * REQ ≤ 2 * (s.cfg.sysclkHz * 256) + f →
      2 * (s.cfg.sysclkHz * 256) + f < 2 * f * (REQ + 1) →
      (REQ ≤ s.cfg.limit ∧ CD = 256 ∨
        s.cfg.limit < REQ ∧ REQ * 256 ≤ CD * s.cfg.limit ∧ CD * s.cfg.limit < REQ * 256 + s.cfg.limit) →
      2 * (CD * f) * TOTAL ≤ 2 * (s.cfg.sysclkHz * 65536) + CD * f →
      2 * (s.cfg.sysclkHz * 65536) + CD * f < 2 * (CD * f) * (TOTAL + 1) →
      (16777216 < CD → Responds .rejFreqTooLow 0 0 t) ∧
      (CD ≤ 16777216 → TOTAL ≤ s.cfg.overhead → Responds .rejFreqTooHigh 0 0 t) ∧
      (CD ≤ 16777216 → s.cfg.overhead < TOTAL → TOTAL < s.cfg.overhead + 2 * s.cfg.minPhase →
        Responds .rejPhaseTooShort 0 0 t) ∧
      (CD ≤ 16777216 → s.cfg.overhead < TOTAL → s.cfg.overhead + 2 * s.cfg.minPhase ≤ TOTAL →
        ∀ VAR X HIGH : Nat, VAR + s.cfg.overhead = TOTAL →
          2 * 65536 * X ≤ 2 * (VAR * D) + 65536 → 2 * (VAR * D) + 65536 < 2 * 65536 * (X + 1) →
          HIGH = max s.cfg.minPhase (min X (VAR - s.cfg.minPhase)) →
          Responds .ok (BitVec.ofNat 32 CD)
            (BitVec.ofNat 32 ((HIGH - s.cfg.minPhase) * 65536 + (VAR - HIGH - s.cfg.minPhase))) t)

/-- R131: the defensive check of step 7 never rejects, because `TOTAL ≤ LIMIT` whenever step 6 is reached. -/
def Obligations.DefensiveCheckNeverRejects : Prop :=
  ∀ (c : Config) (fq duty : Int),
    let cd := clockDivisor c (requiredCycles c fq.toNat)
    let total := totalCycles c fq.toNat cd
    let var := total - c.overhead
    let high := highPhase c var (clampUnit c duty)
    (encodeFD c fq duty).st ≠ .rejPackOverflow ∧
    (0 < fq → cd ≤ maxDivisor c → c.overhead < total → 2 * c.minPhase ≤ var →
      total ≤ c.limit ∧ var ≤ 0xFFFF + c.minPhase ∧
      high - c.minPhase ≤ var - 2 * c.minPhase ∧
      var - high - c.minPhase ≤ var - 2 * c.minPhase ∧
      var - 2 * c.minPhase ≤ 0xFFFF - c.minPhase)

/-- R132: the two phases read off the packed word, with `OVERHEAD`, make up `TOTAL`, and neither is below
`MIN_PHASE`. -/
def Obligations.EncodedPhasesMakeUpThePeriod : Prop :=
  ∀ (c : Config) (fq duty : Int), c.FormatsLegal →
    let e := encodeFD c fq duty
    let total := totalCycles c fq.toNat e.cd.toNat
    let high := highPhase c (total - c.overhead) (clampUnit c duty)
    let low := total - c.overhead - high
    e.st = .ok →
      c.minPhase ≤ high ∧ c.minPhase ≤ low ∧ high + low + c.overhead = total ∧
      e.w.toNat / 65536 + c.minPhase = high ∧ e.w.toNat % 65536 + c.minPhase = low

/-- R133: the high phase and its share of the two phases do not fall as the duty rises, and neither the sum
of the phases nor the status depends on the duty. The phases are read off the packed word. -/
def Obligations.HighPhaseMonotoneInDuty : Prop :=
  ∀ (c : Config) (fq d1 d2 : Int), c.FormatsLegal →
    let e1 := encodeFD c fq d1
    let e2 := encodeFD c fq d2
    let high := fun e : Encoded => e.w.toNat / 65536 + c.minPhase
    let low := fun e : Encoded => e.w.toNat % 65536 + c.minPhase
    e1.st = e2.st ∧
    (e1.st = .ok →
      high e1 + low e1 = high e2 + low e2 ∧
      high e1 + low e1 + c.overhead = totalCycles c fq.toNat e1.cd.toNat ∧
      (d1 ≤ d2 →
        high e1 ≤ high e2 ∧
        (high e1 : ℚ) / (high e1 + low e1 : ℕ) ≤ (high e2 : ℚ) / (high e2 + low e2 : ℕ)))

/-- R134, multiplied by `512 · fq`: the encoded period is within half a divided-clock cycle of the ideal one. -/
def Obligations.EncodedPeriodWithinHalfACycle : Prop :=
  ∀ (c : Config) (fq duty : Int), c.FormatsLegal →
    let e := encodeFD c fq duty
    let total : Int := (e.w.toNat / 65536 + e.w.toNat % 65536 + 2 * c.minPhase + c.overhead : Nat)
    e.st = .ok →
      |2 * total * e.cd.toNat * fq - 2 ^ 17 * c.sysclkHz| ≤ e.cd.toNat * fq

/-- R135: the range of the clock divisor, and when the clock is not slowed. -/
def Obligations.ClockDivisorRange : Prop :=
  ∀ (c : Config) (fq duty : Int), c.FormatsLegal →
    let e := encodeFD c fq duty
    let req := requiredCycles c fq.toNat
    (e.st = .ok → 256 ≤ e.cd.toNat ∧ e.cd.toNat ≤ 16777216 ∧ (e.cd.toNat = 256 ↔ req ≤ c.limit)) ∧
    (c.limit < req → 257 ≤ cdiv (req * 256) c.limit)

/-- R136 and R137: where Encode rejects a frequency as too low or too high. -/
def Obligations.RejectionBoundaries : Prop :=
  ∀ (c : Config) (fq duty : Int), c.FormatsLegal →
    let st := (encodeFD c fq duty).st
    let req := requiredCycles c fq.toNat
    let total := totalCycles c fq.toNat (clockDivisor c req)
    (st = .rejFreqTooLow ↔ 0 < fq ∧ 65536 * c.limit < req) ∧
    (65536 * c.limit < req ↔ (65536 : ℚ) < (req : ℚ) / (c.limit : ℚ)) ∧
    (st = .rejFreqTooHigh ↔ 0 < fq ∧ req ≤ 65536 * c.limit ∧ total ≤ c.overhead) ∧
    (0 < fq → req ≤ c.limit → total = req ∧ (total ≤ c.overhead ↔ req ≤ c.overhead)) ∧
    (1 ≤ c.overhead + c.minPhase → 2 ^ 32 ≤ 65536 * c.limit) ∧
    (1 ≤ c.overhead + c.minPhase → c.sysclkHz < 2 ^ 32 → st = .rejFreqTooLow → fq < 256)

/-- R138: a duty of 0 or below leaves the high phase, and a duty of 1 or above the low phase, at
`MIN_PHASE`. -/
def Obligations.DutyCornersKeepMinPhase : Prop :=
  ∀ (c : Config) (fq duty : Int), c.FormatsLegal →
    let e := encodeFD c fq duty
    (e.st = .ok → duty ≤ 0 → e.w.toNat / 65536 = 0) ∧
    (e.st = .ok → 65536 ≤ duty → e.w.toNat % 65536 = 0) ∧
    (∀ var, 2 * c.minPhase ≤ var →
      rdiv (var * 0) 65536 = 0 ∧ highPhase c var 0 = c.minPhase ∧
      rdiv (var * 65536) 65536 = var ∧ highPhase c var 65536 = var - c.minPhase)

/-! ### The channel output stage -/

/-- R151: START with a frequency of 0 or below is exactly CH_STOP of the same pin; the duty and the duration
are not read. -/
def Obligations.StartOfNonpositiveFrequencyIsStop : Prop :=
  ∀ (s : State) (p : PinId) (fq duty dur : Word), fq.toInt ≤ 0 →
    exec (.start p fq duty dur) s = exec (.chStop p) s

/-- R150, R152 to R154, R158: START on an unbound pin with a lawful claim answer. -/
def Obligations.StartClaimsAndPlays : Prop :=
  ∀ (s : State) (p : PinId) (fq duty dur : Word) (h : Nat),
    let e := encodeFD s.cfg fq.toInt duty.toInt
    p.toNat < s.cfg.nPins → 0 < fq.toInt → e.st = .ok → (s.pin p).bound = false →
    s.env.claim = some h → h < s.cfg.nChannels → s.boundCount < s.cfg.nChannels →
    (∀ q, (s.pin q).bound = true → (s.pin q).handle ≠ h) →
    ∃ t, exec (.start p fq duty dur) s = .next t ∧
      Responds .ok 0 0 t ∧ SamePort s t ∧ SamePinsBut p s t ∧ SameSlots s t ∧ t.freeCount = s.freeCount ∧
      (t.pin p).bound = true ∧ (t.pin p).handle = h ∧ (t.pin p).hwen = true ∧ (t.pin p).lastcd = e.cd ∧
      (dur = 0 → (t.pin p).alarmPend = false ∧ (t.pin p).alarmAt = (s.pin p).alarmAt) ∧
      (dur ≠ 0 → (t.pin p).alarmPend = true ∧ (t.pin p).alarmAt = s.env.now + dur.setWidth 64) ∧
      Calls s t
        ([.claimChannel p, .setEnabled h false] ++
          (if (s.pin p).alarmPend then [.cancelOnce p] else []) ++
          [.setClockDivisor h e.cd, .clearBuffer h, .pushWord h e.w, .setEnabled h true] ++
          (if dur = 0 then [] else [.scheduleOnce dur p]))

/-- R150, R153, R154: START on a bound pin claims nothing, cancels the pending alarm, applies the word and
schedules the new alarm. -/
def Obligations.StartRetunesABoundPin : Prop :=
  ∀ (s : State) (p : PinId) (fq duty dur : Word),
    let e := encodeFD s.cfg fq.toInt duty.toInt
    let h := (s.pin p).handle
    p.toNat < s.cfg.nPins → 0 < fq.toInt → e.st = .ok → (s.pin p).bound = true →
    ∃ t, exec (.start p fq duty dur) s = .next t ∧
      Responds .ok 0 0 t ∧ SamePort s t ∧ SamePinsBut p s t ∧ SameSlots s t ∧ t.freeCount = s.freeCount ∧
      (t.pin p).bound = true ∧ (t.pin p).handle = h ∧ (t.pin p).hwen = true ∧ (t.pin p).lastcd = e.cd ∧
      (dur = 0 → (t.pin p).alarmPend = false ∧ (t.pin p).alarmAt = (s.pin p).alarmAt) ∧
      (dur ≠ 0 → (t.pin p).alarmPend = true ∧ (t.pin p).alarmAt = s.env.now + dur.setWidth 64) ∧
      Calls s t
        ((if (s.pin p).alarmPend then [.cancelOnce p] else []) ++
          (if (s.pin p).hwen = false ∨ e.cd ≠ (s.pin p).lastcd then [.setClockDivisor h e.cd] else []) ++
          [.clearBuffer h, .pushWord h e.w] ++
          (if (s.pin p).hwen = false then [.setEnabled h true] else []) ++
          (if dur = 0 then [] else [.scheduleOnce dur p]))

/-- R253, R158: a failed claim, which an exhausted pool forces, leaves the pin unbound; its only trace is the
`claimChannel` call. A handle the environment answers with while `N_CHANNELS` pins are bound counts as failure,
which is the model's choice (log entry 8). -/
def Obligations.FailedClaimLeavesPinUnbound : Prop :=
  ∀ (s : State) (p : PinId) (fq duty dur : Word),
    p.toNat < s.cfg.nPins → 0 < fq.toInt → (encodeFD s.cfg fq.toInt duty.toInt).st = .ok →
    (s.pin p).bound = false → (s.env.claim = none ∨ s.cfg.nChannels ≤ s.boundCount) →
    ∃ t, exec (.start p fq duty dur) s = .next t ∧
      Responds .noChannel 0 0 t ∧ SamePort s t ∧ SamePins s t ∧ SameSlots s t ∧
      t.freeCount = s.freeCount ∧ (t.pin p).bound = false ∧ Calls s t [.claimChannel p]

/-- R252: an Encode rejection inside START or RETUNE changes no state and makes no external call. -/
def Obligations.RejectedEncodingChangesNothing : Prop :=
  ∀ (s : State) (p : PinId) (fq duty dur : Word),
    let e := encodeFD s.cfg fq.toInt duty.toInt
    p.toNat < s.cfg.nPins → e.st ≠ .ok →
    (0 < fq.toInt →
      ∃ t, exec (.start p fq duty dur) s = .next t ∧ Responds e.st 0 0 t ∧ OnlyResponds s t) ∧
    ((s.pin p).bound = true →
      ∃ t, exec (.retune p fq duty) s = .next t ∧ Responds e.st 0 0 t ∧ OnlyResponds s t)

/-- R155, R153: RETUNE on a bound pin applies the word and leaves the binding and the alarm alone. -/
def Obligations.RetuneAppliesTheWord : Prop :=
  ∀ (s : State) (p : PinId) (fq duty : Word),
    let e := encodeFD s.cfg fq.toInt duty.toInt
    let h := (s.pin p).handle
    p.toNat < s.cfg.nPins → (s.pin p).bound = true → e.st = .ok →
    ∃ t, exec (.retune p fq duty) s = .next t ∧
      Responds .ok 0 0 t ∧ SamePort s t ∧ SamePinsBut p s t ∧ SameSlots s t ∧ t.freeCount = s.freeCount ∧
      t.pin p = { s.pin p with hwen := true, lastcd := e.cd } ∧
      Calls s t
        ((if (s.pin p).hwen = false ∨ e.cd ≠ (s.pin p).lastcd then [.setClockDivisor h e.cd] else []) ++
          [.clearBuffer h, .pushWord h e.w] ++
          (if (s.pin p).hwen = false then [.setEnabled h true] else []))

/-- R155, R156: on an unbound pin RETUNE and CH_STOP report `NOT_BOUND` and do nothing. -/
def Obligations.UnboundPinIsReported : Prop :=
  ∀ (s : State) (p : PinId) (fq duty : Word),
    p.toNat < s.cfg.nPins → (s.pin p).bound = false →
    (∃ t, exec (.retune p fq duty) s = .next t ∧ Responds .notBound 0 0 t ∧ OnlyResponds s t) ∧
    (∃ t, exec (.chStop p) s = .next t ∧ Responds .notBound 0 0 t ∧ OnlyResponds s t)

/-- R156: CH_STOP on a bound pin cancels the alarm, disables and releases the channel, unbinds the pin and
drives it to the idle level. Nothing is said of `HANDLE` and `LASTCD`, which become unspecified. -/
def Obligations.StopReleasesTheChannel : Prop :=
  ∀ (s : State) (p : PinId), p.toNat < s.cfg.nPins → (s.pin p).bound = true →
    ∃ t, exec (.chStop p) s = .next t ∧
      Responds .ok 0 0 t ∧ SamePort s t ∧ SamePinsBut p s t ∧ SameSlots s t ∧
      (t.pin p).bound = false ∧ (t.pin p).hwen = false ∧ (t.pin p).alarmPend = false ∧
      (t.pin p).alarmAt = (s.pin p).alarmAt ∧
      Calls s t
        ((if (s.pin p).alarmPend then [.cancelOnce p] else []) ++
          [.setEnabled (s.pin p).handle false, .releaseChannel (s.pin p).handle,
            .setPinMode p .output, .writePin p s.cfg.idleLevel])

/-- R157: EV_ALARM on a pin with its alarm pending stops the tone and cancels no alarm. On an unbound pin,
which R47 excludes, it reports `NOT_BOUND` and the alarm is spent all the same. -/
def Obligations.AlarmStopsTheTone : Prop :=
  ∀ (s : State) (p : PinId), p.toNat < s.cfg.nPins → (s.pin p).alarmPend = true →
    ∃ t, exec (.evAlarm p) s = .next t ∧
      SamePort s t ∧ SamePinsBut p s t ∧ SameSlots s t ∧
      (t.pin p).bound = false ∧ (t.pin p).alarmPend = false ∧ (t.pin p).alarmAt = (s.pin p).alarmAt ∧
      ((s.pin p).bound = true →
        Responds .ok 0 0 t ∧ (t.pin p).hwen = false ∧
        Calls s t
          [.setEnabled (s.pin p).handle false, .releaseChannel (s.pin p).handle,
            .setPinMode p .output, .writePin p s.cfg.idleLevel]) ∧
      ((s.pin p).bound = false →
        Responds .notBound 0 0 t ∧ t.pin p = { s.pin p with alarmPend := false } ∧ Calls s t [])

/-- R160, for a START that does not stop (`fq > 0`) and for RETUNE: after `OK` the channel is bound, enabled
and at Encode's divisor, and the buffer was cleared and given the one new word. -/
def Obligations.OkLeavesTheToneApplied : Prop :=
  ∀ (s t : State) (p : PinId) (fq duty dur : Word) (i : Instr) (calls : List Call),
    let e := encodeFD s.cfg fq.toInt duty.toInt
    let touchesBuffer : Call → Bool := fun c =>
      match c with
      | .clearBuffer _ => true
      | .pushWord _ _ => true
      | _ => false
    (i = .start p fq duty dur ∧ 0 < fq.toInt ∨ i = .retune p fq duty) →
    exec i s = .next t → t.status = Status.ok.word → Calls s t calls →
      (t.pin p).bound = true ∧ (t.pin p).hwen = true ∧ (t.pin p).lastcd = e.cd ∧
      calls.filter touchesBuffer = [.clearBuffer (t.pin p).handle, .pushWord (t.pin p).handle e.w]

/-- R161, R290: for a channel that stays bound, no operation calls `setClockDivisor` but with a value that
differs from the last, which becomes the last. The premises are the invariants stated below. A claim answer
that breaks the law of R158 counts as failure, which is the model's choice (log entry 8). -/
def Obligations.DivisorIsWrittenOnlyOnChange : Prop :=
  ∀ (s t : State) (i : Instr) (p : PinId) (calls : List Call) (cd : ClkDiv),
    RecordsConsistent s → RecordsInRange s →
    exec i s = .next t → Calls s t calls →
    (s.pin p).bound = true → (t.pin p).bound = true →
    Call.setClockDivisor (s.pin p).handle cd ∈ calls →
      cd ≠ (s.pin p).lastcd ∧ (t.pin p).lastcd = cd

/-! ### The Speaker slots -/

/-- R180: what SPK_INIT writes, on a slot not constructed and for a positive frequency; the three fields it does
not name keep their values (R11). -/
def Obligations.InitConstructsTheSlot : Prop :=
  ∀ (s : State) (v : SlotId) (p : PinId) (aff : Bool) (fq vol : Word),
    v.toNat < s.cfg.nSlots → p.toNat < s.cfg.nPins → (s.slot v).valid = false → 0 < fq.toInt →
    configLegal s.cfg = true →
    ∃ t, exec (.spkInit v p aff fq vol) s = .next t ∧
      Responds .ok 0 0 t ∧ SamePort s t ∧ SamePins s t ∧ SameSlotsBut v s t ∧
      t.trace = s.trace ∧ t.freeCount = s.freeCount ∧
      (t.slot v).valid = true ∧ (t.slot v).pin = p ∧ (t.slot v).aff = aff ∧
      (t.slot v).wave.toNat = s.cfg.defaultWave ∧ (t.slot v).pendValid = false ∧
      (t.slot v).freq = fq ∧
      ((t.slot v).vol.toNat : Int) = max 0 (min vol.toInt 65536) ∧
      (t.slot v).scale.toNat = volLaw s.cfg (t.slot v).vol.toNat ∧
      (t.slot v).period.toNat = stepPeriod s.cfg (waveSize s.cfg (t.slot v).wave) fq.toInt ∧
      (t.slot v).playing = false ∧ (t.slot v).index = 0 ∧ (t.slot v).dlValid = false ∧
      (t.slot v).dirty = false ∧ (t.slot v).tmrReg = false ∧
      (t.slot v).pend = (s.slot v).pend ∧ (t.slot v).dl = (s.slot v).dl ∧
      (t.slot v).tmrInterval = (s.slot v).tmrInterval

/-- R183: SPK_SET_FREQ with a new positive frequency. -/
def Obligations.SetFreqStoresTheFrequency : Prop :=
  ∀ (s : State) (v : SlotId) (fq : Word), s.cfg.FormatsLegal →
    v.toNat < s.cfg.nSlots → (s.slot v).valid = true → fq ≠ (s.slot v).freq → 0 < fq.toInt →
    ∃ t, exec (.spkSetFreq v fq) s = .next t ∧
      Responds .ok 0 0 t ∧ SamePort s t ∧ SamePins s t ∧ SameSlotsBut v s t ∧
      t.trace = s.trace ∧ t.freeCount = s.freeCount ∧
      (t.slot v).period.toNat = stepPeriod s.cfg (waveSize s.cfg (s.slot v).wave) fq.toInt ∧
      t.slot v =
        { s.slot v with
          freq := fq
          period := (t.slot v).period
          dirty := if (s.slot v).playing then true else (s.slot v).dirty }

/-- R184: SPK_SET_VOL with an operand that differs from `VOL` stores it clamped, with its duty scale. -/
def Obligations.SetVolStoresTheClampedVolume : Prop :=
  ∀ (s : State) (v : SlotId) (vol : Word), s.cfg.FormatsLegal →
    v.toNat < s.cfg.nSlots → (s.slot v).valid = true → vol.toInt ≠ (s.slot v).vol.toNat →
    ∃ t, exec (.spkSetVol v vol) s = .next t ∧
      Responds .ok 0 0 t ∧ SamePort s t ∧ SamePins s t ∧ SameSlotsBut v s t ∧
      t.trace = s.trace ∧ t.freeCount = s.freeCount ∧
      ((t.slot v).vol.toNat : Int) = max 0 (min vol.toInt 65536) ∧
      (t.slot v).scale.toNat = volLaw s.cfg (t.slot v).vol.toNat ∧
      t.slot v = { s.slot v with vol := (t.slot v).vol, scale := (t.slot v).scale }

/-- R185: SPK_SET_WAVE swaps at once on a stopped slot and pends the swap on a playing one. -/
def Obligations.SetWaveSwapsOrPends : Prop :=
  ∀ (s : State) (v : SlotId) (w : BitVec 8), s.cfg.FormatsLegal →
    v.toNat < s.cfg.nSlots → (s.slot v).valid = true → w.toNat < s.cfg.waves.length →
    ∃ t, exec (.spkSetWave v w) s = .next t ∧
      Responds .ok 0 0 t ∧ SamePort s t ∧ SamePins s t ∧ SameSlotsBut v s t ∧
      t.trace = s.trace ∧ t.freeCount = s.freeCount ∧
      ((s.slot v).playing = true → t.slot v = { s.slot v with pend := w, pendValid := true }) ∧
      ((s.slot v).playing = false →
        (t.slot v).period.toNat = stepPeriod s.cfg (waveSize s.cfg w) (s.slot v).freq.toInt ∧
        t.slot v = { s.slot v with wave := w, period := (t.slot v).period })

/-- R192: on a slot with `PLAYING = 1`, SPK_PLAY changes only `DL` and `DL_VALID` and makes no external
call. -/
def Obligations.PlayOnAPlayingSlotMovesTheDeadline : Prop :=
  ∀ (s : State) (v : SlotId) (dur : Word),
    v.toNat < s.cfg.nSlots → (s.slot v).valid = true → (s.slot v).playing = true →
    ∃ t, exec (.spkPlay v dur) s = .next t ∧
      Responds .ok 0 0 t ∧ SamePort s t ∧ SamePins s t ∧ SameSlotsBut v s t ∧
      t.trace = s.trace ∧ t.freeCount = s.freeCount ∧
      (dur = 0 → t.slot v = { s.slot v with dlValid := false }) ∧
      (dur ≠ 0 → t.slot v = { s.slot v with dl := s.env.now + dur.setWidth 64, dlValid := true })

/-- R186, R232: SPK_PLAY on a stopped slot does what START of the carrier does to the pin, reports START's
status in `RES0`, registers the timer at the slot's period and marks the slot playing. -/
def Obligations.PlayStartsTheCarrier : Prop :=
  ∀ (s : State) (v : SlotId) (dur carrier : Word),
    v.toNat < s.cfg.nSlots → (s.slot v).valid = true → (s.slot v).playing = false →
    (s.slot v).pin.toNat < s.cfg.nPins →
    s.cfg.carrierHz * 2 ^ s.cfg.freqFB < 2 ^ 31 → carrier.toNat = s.cfg.carrierHz * 2 ^ s.cfg.freqFB →
    ∃ u t, exec (.start (s.slot v).pin carrier 0 0) s = .next u ∧ exec (.spkPlay v dur) s = .next t ∧
      Responds .ok u.status 0 t ∧ SamePort s t ∧ SamePins u t ∧ SameSlotsBut v s t ∧
      t.freeCount = u.freeCount ∧
      t.trace = u.trace ++ [.scheduleRepeating (s.slot v).period v] ∧
      t.slot v =
        { s.slot v with
          tmrReg := true
          tmrInterval := (s.slot v).period
          playing := true
          dl := if dur = 0 then (s.slot v).dl else s.env.now + dur.setWidth 64
          dlValid := if dur = 0 then (s.slot v).dlValid else true }

/-- R187, R288: SPK_STOP on a playing slot cancels the timer, then does what CH_STOP does to the pin, and
reports CH_STOP's status in `RES0`. -/
def Obligations.SpeakerStopStopsTheChannel : Prop :=
  ∀ (s : State) (v : SlotId),
    v.toNat < s.cfg.nSlots → (s.slot v).valid = true → (s.slot v).playing = true →
    (s.slot v).pin.toNat < s.cfg.nPins →
    ∃ u t, exec (.chStop (s.slot v).pin) s = .next u ∧ exec (.spkStop v) s = .next t ∧
      Responds .ok u.status 0 t ∧ SamePort s t ∧ SamePins u t ∧ SameSlotsBut v s t ∧
      t.freeCount = u.freeCount ∧
      (∀ calls, Calls s u calls → Calls s t (.cancelRepeating v :: calls)) ∧
      t.slot v = { s.slot v with playing := false, dlValid := false, tmrReg := false }

/-- R188 to R190: the getters answer with their field and do nothing else. -/
def Obligations.GettersReadTheSlot : Prop :=
  ∀ (s : State) (v : SlotId), v.toNat < s.cfg.nSlots → (s.slot v).valid = true →
    (∃ t, exec (.spkGetFreq v) s = .next t ∧ Responds .ok (s.slot v).freq 0 t ∧ OnlyResponds s t) ∧
    (∃ t, exec (.spkGetVol v) s = .next t ∧
      Responds .ok (BitVec.ofNat 32 (s.slot v).vol.toNat) 0 t ∧ OnlyResponds s t) ∧
    (∃ t, exec (.spkIsPlaying v) s = .next t ∧
      Responds .ok (if (s.slot v).playing then 1 else 0) 0 t ∧ OnlyResponds s t)

/-- R93 `NOOP`, R157, R183, R184, R187, R220 step 1: the no-op cases change nothing and make no call. -/
def Obligations.NoopCasesChangeNothing : Prop :=
  ∀ s : State,
    let noop := fun i : Instr => ∃ t, exec i s = .next t ∧ Responds .noop 0 0 t ∧ OnlyResponds s t
    (∀ p : PinId, p.toNat < s.cfg.nPins → (s.pin p).alarmPend = false → noop (.evAlarm p)) ∧
    (∀ v : SlotId, v.toNat < s.cfg.nSlots → (s.slot v).valid = true →
      (∀ fq, fq = (s.slot v).freq ∨ fq.toInt ≤ 0 → noop (.spkSetFreq v fq)) ∧
      (∀ vol : Word, vol.toInt = (s.slot v).vol.toNat → noop (.spkSetVol v vol)) ∧
      ((s.slot v).playing = false → noop (.spkStop v) ∧ noop (.evTick v)))

/-- R181: the step period is the truncated quotient, at least 1 and at most 256 000 000 microseconds. -/
def Obligations.StepPeriodIsTheTruncatedQuotient : Prop :=
  ∀ (c : Config) (n : Nat) (fq : Int), c.FormatsLegal → 0 < n → 0 < fq →
    let q := stepPeriod c n fq
    1 ≤ q ∧ q ≤ 256000000 ∧
    256000000 < (q + 1) * (n * fq) ∧
    (n * fq ≤ 256000000 → q * (n * fq) ≤ 256000000) ∧
    (256000000 < n * fq → q = 1)

/-- R193: the volume law's corners and its monotony. -/
def Obligations.VolumeLawProperties : Prop :=
  ∀ c : Config, c.FormatsLegal →
    volLaw c 65536 = 65536 ∧
    (∀ v, v ≤ 65536 → volLaw c v ≤ 65536) ∧
    (∀ v, v ≤ 655 → volLaw c v = 0) ∧
    (∀ v w, v ≤ w → volLaw c v ≤ volLaw c w) ∧
    volLaw c 656 = 7 ∧
    (∀ v, volLaw c v ≠ 0 → 7 ≤ volLaw c v)

/-- R194: the core affinity changes no result of any operation: erased before, the next state is the same but
for it. -/
def Obligations.AffinityHasNoEffect : Prop :=
  ∀ (i : Instr) (s t : State), exec i s = .next t →
    ∃ u, exec i s.eraseAff = .next u ∧ u.eraseAff = t.eraseAff

/-- R29 to R31, R191, R284: a constructed slot stays constructed, with its pin and affinity, and a second
SPK_INIT of it is ILLEGAL. -/
def Obligations.ConstructedSlotsStayConstructed : Prop :=
  ∀ (s : State) (v : SlotId), (s.slot v).valid = true →
    (∀ (i : Instr) (t : State), exec i s = .next t →
      (t.slot v).valid = true ∧ (t.slot v).pin = (s.slot v).pin ∧ (t.slot v).aff = (s.slot v).aff) ∧
    (∀ (p : PinId) (aff : Bool) (fq vol : Word),
      ∃ t, exec (.spkInit v p aff fq vol) s = .next t ∧ Responds .illegal 0 0 t ∧ OnlyResponds s t)

/-! ### The waveform pipeline -/

/-- R220 steps 3 to 5, R221, R222: a tick that does not stop commits a due swap, re-arms a dirty timer, and
does what RETUNE of the carrier at the scaled sample does to the pin. -/
def Obligations.TickPublishesOneStep : Prop :=
  ∀ (s : State) (v : SlotId) (carrier : Word) (smp d : Nat),
    let r := s.slot v
    let swap : Bool := decide (r.index = 0) && r.pendValid
    let w := if swap then r.pend else r.wave
    let period := if swap then BitVec.ofNat 32 (stepPeriod s.cfg (waveSize s.cfg w) r.freq.toInt) else r.period
    let dirty := r.dirty || swap
    v.toNat < s.cfg.nSlots → r.valid = true → r.playing = true →
    ¬(r.dlValid = true ∧ r.dl ≤ s.env.now) →
    r.pin.toNat < s.cfg.nPins → s.cfg.carrierHz * 2 ^ s.cfg.freqFB < 2 ^ 31 → carrier.toNat = s.cfg.carrierHz * 2 ^ s.cfg.freqFB →
    ((∃ bytes b, s.cfg.waves[w.toNat]? = some (.table bytes) ∧
        bytes[r.index.toNat &&& (bytes.length - 1)]? = some b ∧ smp = b.toNat) ∨
      s.cfg.waves[w.toNat]? = some .noise ∧ smp = s.env.noise.toNat) →
    2 * 255 * d ≤ 2 * (smp * r.scale.toNat) + 255 → 2 * (smp * r.scale.toNat) + 255 < 2 * 255 * (d + 1) →
    ∃ u t, exec (.retune r.pin carrier (BitVec.ofNat 32 d)) s = .next u ∧ exec (.evTick v) s = .next t ∧
      Responds .ok u.status (BitVec.ofNat 32 d) t ∧
      SamePort s t ∧ SamePins u t ∧ SameSlotsBut v s t ∧ t.freeCount = s.freeCount ∧
      (∀ calls, Calls s u calls → Calls s t ((if dirty then [.rearm period v] else []) ++ calls)) ∧
      t.slot v =
        { r with
          wave := w
          pendValid := r.pendValid && !swap
          period := period
          dirty := false
          tmrInterval := if dirty then period else r.tmrInterval
          index := BitVec.ofNat 8 ((r.index.toNat + 1) &&& (waveSize s.cfg w - 1)) }

/-- R220 step 2, R227, R231: at or after its deadline a tick is exactly SPK_STOP, and a tick before it leaves
the slot playing. -/
def Obligations.TickAtTheDeadlineIsStop : Prop :=
  ∀ (s : State) (v : SlotId),
    v.toNat < s.cfg.nSlots → (s.slot v).valid = true → (s.slot v).playing = true →
    ((s.slot v).dlValid = true → (s.slot v).dl.toNat ≤ s.env.now.toNat →
      exec (.evTick v) s = exec (.spkStop v) s) ∧
    (((s.slot v).dlValid = false ∨ s.env.now.toNat < (s.slot v).dl.toNat) →
      ∃ t, exec (.evTick v) s = .next t ∧ (t.slot v).playing = true)

/-- R225: a pending swap is committed only by EV_TICK and only at `INDEX = 0`, and nothing else writes `WAVE`
while the slot plays. -/
def Obligations.WaveChangesOnlyAtTheWrap : Prop :=
  ∀ (i : Instr) (s t : State) (v : SlotId), exec i s = .next t → (s.slot v).valid = true →
    ((s.slot v).pendValid = true → (t.slot v).pendValid = false → i = .evTick v ∧ (s.slot v).index = 0) ∧
    ((s.slot v).playing = true → (t.slot v).wave ≠ (s.slot v).wave →
      i = .evTick v ∧ (s.slot v).index = 0 ∧ (s.slot v).pendValid = true ∧
        (t.slot v).wave = (s.slot v).pend)

/-- R226: `rearm` is called only by EV_TICK of the slot, with the slot's step period, and only EV_TICK changes
the interval of a playing slot's timer. -/
def Obligations.RearmOnlyFromTheTick : Prop :=
  ∀ (i : Instr) (s t : State) (v : SlotId) (calls : List Call), exec i s = .next t → Calls s t calls →
    (∀ iv, Call.rearm iv v ∈ calls →
      i = .evTick v ∧ iv = (t.slot v).period ∧ (t.slot v).tmrInterval = iv ∧ (t.slot v).dirty = false) ∧
    ((s.slot v).valid = true → (s.slot v).playing = true →
      (t.slot v).tmrInterval ≠ (s.slot v).tmrInterval → i = .evTick v)

/-- R224: the index advance by a mask is the advance modulo the size, and after a noise step the index
is 0. -/
def Obligations.IndexAdvancesModuloTheSize : Prop :=
  ∀ (s : State) (v : SlotId), configLegal s.cfg = true →
    v.toNat < s.cfg.nSlots → (s.slot v).valid = true → (s.slot v).playing = true →
    ¬((s.slot v).dlValid = true ∧ (s.slot v).dl ≤ s.env.now) →
    ∃ t, exec (.evTick v) s = .next t ∧
      (t.slot v).index.toNat = ((s.slot v).index.toNat + 1) &&& (waveSize s.cfg (t.slot v).wave - 1) ∧
      (t.slot v).index.toNat = ((s.slot v).index.toNat + 1) % waveSize s.cfg (t.slot v).wave ∧
      (wave s.cfg (t.slot v).wave = .noise → (t.slot v).index = 0)

/-- R228, R287: a swap pending at `INDEX = k ≠ 0` leaves the old waveform sampled at `k, k+1, …, size − 1`,
and the first tick back at index 0 samples the new one. -/
def Obligations.SwapIsGlitchFree : Prop :=
  ∀ (s : State) (v : SlotId) (es : List Env) (e : Env),
    let r := s.slot v
    let k := r.index.toNat
    let size := waveSize s.cfg r.wave
    let scaled := fun smp : Nat => BitVec.ofNat 32 (scaleSample smp r.scale.toNat)
    configLegal s.cfg = true → v.toNat < s.cfg.nSlots → r.valid = true → r.playing = true →
    r.pendValid = true → 0 < k → k < size → es.length ≤ size - k →
    (∀ x ∈ e :: es, ¬(r.dlValid = true ∧ r.dl ≤ x.now)) →
    ∃ t u, ticks v es s = some t ∧ ticks v (es ++ [e]) s = some u ∧
      (t.slot v).wave = r.wave ∧ (t.slot v).pendValid = true ∧
      (es.length < size - k →
        (u.slot v).wave = r.wave ∧ u.res1 = scaled (sample s.cfg r.wave (k + es.length) e.noise)) ∧
      (es.length = size - k →
        (t.slot v).index = 0 ∧ (u.slot v).wave = r.pend ∧ (u.slot v).pendValid = false ∧
        u.res1 = scaled (sample s.cfg r.pend 0 e.noise))

/-- R232 (with R220, R153 and R155): with the channel at the carrier's divisor, a step that re-arms nothing
makes exactly the two calls `clearBuffer` and `pushWord`. -/
def Obligations.CarrierStepWritesNoDivisor : Prop :=
  ∀ (s : State) (v : SlotId) (duty0 : Int),
    let r := s.slot v
    let h := (s.pin r.pin).handle
    v.toNat < s.cfg.nSlots → r.valid = true → r.playing = true →
    ¬(r.dlValid = true ∧ r.dl ≤ s.env.now) → r.dirty = false → ¬(r.index = 0 ∧ r.pendValid = true) →
    (s.pin r.pin).bound = true → (s.pin r.pin).hwen = true →
    (encodeFD s.cfg (carrierFq s.cfg) duty0).st = .ok →
    (s.pin r.pin).lastcd = (encodeFD s.cfg (carrierFq s.cfg) duty0).cd →
    ∃ t, exec (.evTick v) s = .next t ∧
      (t.pin r.pin).lastcd = (s.pin r.pin).lastcd ∧
      Calls s t
        [.clearBuffer h, .pushWord h (encodeFD s.cfg (carrierFq s.cfg) t.res1.toNat).w]

/-- R221: the duty of a step is the nearest integer to `smp · SCALE / 255` and never exceeds the scale. -/
def Obligations.ScaledSampleStaysWithinTheScale : Prop :=
  ∀ smp scale : Nat, smp ≤ 255 → scale ≤ 65536 →
    scaleSample smp scale ≤ scale ∧ scaleSample smp scale ≤ 65536 ∧
    |255 * (scaleSample smp scale : Int) - smp * scale| * 2 < 255

/-! ### Reset and invariants -/

/-- R280: the values the spec gives for reset, for every configuration. -/
def Obligations.ResetValues : Prop :=
  ∀ c : Config,
    let s := State.resetOf c
    s.cfg = c ∧ s.status = 0 ∧ s.res0 = 0 ∧ s.res1 = 0 ∧ s.trace = [] ∧
    (∀ p, (s.pin p).bound = false ∧ (s.pin p).hwen = false ∧ (s.pin p).alarmPend = false) ∧
    (∀ v, (s.slot v).valid = false)

/-- The invariants of R47, and of the legal values of the fields that R24, R26, R30 and R32 to R37 give a range,
hold after reset, for every configuration. -/
def Obligations.ResetMeetsTheInvariants : Prop :=
  ∀ c : Config, RecordsConsistent (State.resetOf c) ∧ RecordsInRange (State.resetOf c)

/-- R47: every step keeps the invariants for every pin and slot. -/
def Obligations.StepKeepsRecordsConsistent : Prop :=
  ∀ s t : State, RecordsConsistent s → step s = .next t → RecordsConsistent t

/-- R24, R26, R30, R32 to R37, R158: every step keeps `HANDLE` and `LASTCD` of bound pins and `PIN`, `WAVE`,
`PEND` (while a swap is pending), `FREQ`, `VOL`, `SCALE` and `PERIOD` of constructed slots at legal values, and
no two pins on one channel. That this holds for claim answers that break the law of R158 is the model's choice (log entry 8). -/
def Obligations.StepKeepsRecordsInRange : Prop :=
  ∀ s t : State, RecordsInRange s → step s = .next t → RecordsInRange t
end

