-- ==== Sys2Proof/Laws/Arith.lean ====
section
/-! SUPPORT. What the primitives of R11 compute. -/

namespace Sys2Proof.Machine

/-- `rdiv a b` is the one number within half a unit of `a / b`, the upper one on a tie. -/
theorem rdiv_eq_iff {a b q : Nat} (hb : 0 < b) :
    rdiv a b = q ↔ 2 * b * q ≤ 2 * a + b ∧ 2 * a + b < 2 * b * (q + 1) := by
  unfold rdiv
  rw [Nat.div_eq_iff (by omega)]
  constructor
  · rintro ⟨h1, h2⟩
    have e : (q + 1) * (2 * b) = q * (2 * b) + 2 * b := by ring
    refine ⟨by nlinarith, ?_⟩
    have : 2 * b * (q + 1) = q * (2 * b) + 2 * b := by ring
    omega
  · rintro ⟨h1, h2⟩
    have e1 : 2 * b * q = q * (2 * b) := by ring
    have e2 : 2 * b * (q + 1) = q * (2 * b) + 2 * b := by ring
    omega

/-- The two bounds that determine `rdiv a b`. -/
theorem rdiv_bounds (a : Nat) {b : Nat} (hb : 0 < b) :
    2 * b * rdiv a b ≤ 2 * a + b ∧ 2 * a + b < 2 * b * (rdiv a b + 1) :=
  (rdiv_eq_iff hb).1 rfl

theorem rdiv_mono {a a' b : Nat} (h : a ≤ a') : rdiv a b ≤ rdiv a' b :=
  Nat.div_le_div_right (by omega)

/-- `cdiv a b` is the least number whose product with `b` reaches `a`. -/
theorem cdiv_le_iff {a b q : Nat} (hb : 0 < b) : cdiv a b ≤ q ↔ a ≤ b * q := by
  unfold cdiv
  rw [Nat.div_le_iff_le_mul_add_pred hb]
  omega

theorem clamp_of_le {lo hi x : Nat} (h : lo ≤ hi) : lo ≤ clamp x lo hi ∧ clamp x lo hi ≤ hi := by
  unfold clamp; split <;> [omega; (split <;> omega)]

/-- In the formats of R85 and R86 a duty or a volume of 1 is 65536. -/
theorem unit_of_formatsLegal {c : Config} (h : c.FormatsLegal) : c.unit = 65536 := by
  rw [Config.unit, h.2.1]; rfl

theorem clampUnit_le (c : Config) (x : Int) : clampUnit c x ≤ c.unit := by
  unfold clampUnit clamp; split <;> [omega; (split <;> omega)]

theorem clampUnit_mono (c : Config) {x y : Int} (h : x ≤ y) : clampUnit c x ≤ clampUnit c y := by
  unfold clampUnit clamp; repeat' split
  all_goals omega

end Sys2Proof.Machine
end

