-- ==== Sys2Proof/Laws/State.lean ====
section
/-! SUPPORT. What each update of a state leaves in each field. -/

namespace Sys2Proof.Machine

variable (s : State)

@[simp] theorem State.setPin_cfg (p : PinId) (r : PinRec) : (s.setPin p r).cfg = s.cfg := rfl
@[simp] theorem State.setPin_a0 (p : PinId) (r : PinRec) : (s.setPin p r).a0 = s.a0 := rfl
@[simp] theorem State.setPin_a1 (p : PinId) (r : PinRec) : (s.setPin p r).a1 = s.a1 := rfl
@[simp] theorem State.setPin_a2 (p : PinId) (r : PinRec) : (s.setPin p r).a2 = s.a2 := rfl
@[simp] theorem State.setPin_status (p : PinId) (r : PinRec) : (s.setPin p r).status = s.status := rfl
@[simp] theorem State.setPin_res0 (p : PinId) (r : PinRec) : (s.setPin p r).res0 = s.res0 := rfl
@[simp] theorem State.setPin_res1 (p : PinId) (r : PinRec) : (s.setPin p r).res1 = s.res1 := rfl
@[simp] theorem State.setPin_slots (p : PinId) (r : PinRec) : (s.setPin p r).slots = s.slots := rfl
@[simp] theorem State.setPin_trace (p : PinId) (r : PinRec) : (s.setPin p r).trace = s.trace := rfl
@[simp] theorem State.setPin_inbox (p : PinId) (r : PinRec) : (s.setPin p r).inbox = s.inbox := rfl
@[simp] theorem State.setPin_env (p : PinId) (r : PinRec) : (s.setPin p r).env = s.env := rfl
@[simp] theorem State.setPin_freeCount (p : PinId) (r : PinRec) : (s.setPin p r).freeCount = s.freeCount := rfl

@[simp] theorem State.setSlot_cfg (v : SlotId) (r : SlotRec) : (s.setSlot v r).cfg = s.cfg := rfl
@[simp] theorem State.setSlot_a0 (v : SlotId) (r : SlotRec) : (s.setSlot v r).a0 = s.a0 := rfl
@[simp] theorem State.setSlot_a1 (v : SlotId) (r : SlotRec) : (s.setSlot v r).a1 = s.a1 := rfl
@[simp] theorem State.setSlot_a2 (v : SlotId) (r : SlotRec) : (s.setSlot v r).a2 = s.a2 := rfl
@[simp] theorem State.setSlot_status (v : SlotId) (r : SlotRec) : (s.setSlot v r).status = s.status := rfl
@[simp] theorem State.setSlot_res0 (v : SlotId) (r : SlotRec) : (s.setSlot v r).res0 = s.res0 := rfl
@[simp] theorem State.setSlot_res1 (v : SlotId) (r : SlotRec) : (s.setSlot v r).res1 = s.res1 := rfl
@[simp] theorem State.setSlot_pins (v : SlotId) (r : SlotRec) : (s.setSlot v r).pins = s.pins := rfl
@[simp] theorem State.setSlot_trace (v : SlotId) (r : SlotRec) : (s.setSlot v r).trace = s.trace := rfl
@[simp] theorem State.setSlot_inbox (v : SlotId) (r : SlotRec) : (s.setSlot v r).inbox = s.inbox := rfl
@[simp] theorem State.setSlot_env (v : SlotId) (r : SlotRec) : (s.setSlot v r).env = s.env := rfl
@[simp] theorem State.setSlot_freeCount (v : SlotId) (r : SlotRec) : (s.setSlot v r).freeCount = s.freeCount := rfl

@[simp] theorem State.emit_cfg (calls : List Call) : (s.emit calls).cfg = s.cfg := rfl
@[simp] theorem State.emit_a0 (calls : List Call) : (s.emit calls).a0 = s.a0 := rfl
@[simp] theorem State.emit_a1 (calls : List Call) : (s.emit calls).a1 = s.a1 := rfl
@[simp] theorem State.emit_a2 (calls : List Call) : (s.emit calls).a2 = s.a2 := rfl
@[simp] theorem State.emit_status (calls : List Call) : (s.emit calls).status = s.status := rfl
@[simp] theorem State.emit_res0 (calls : List Call) : (s.emit calls).res0 = s.res0 := rfl
@[simp] theorem State.emit_res1 (calls : List Call) : (s.emit calls).res1 = s.res1 := rfl
@[simp] theorem State.emit_pins (calls : List Call) : (s.emit calls).pins = s.pins := rfl
@[simp] theorem State.emit_slots (calls : List Call) : (s.emit calls).slots = s.slots := rfl
@[simp] theorem State.emit_inbox (calls : List Call) : (s.emit calls).inbox = s.inbox := rfl
@[simp] theorem State.emit_env (calls : List Call) : (s.emit calls).env = s.env := rfl
@[simp] theorem State.emit_freeCount (calls : List Call) : (s.emit calls).freeCount = s.freeCount := rfl

@[simp] theorem State.drawFree_cfg : (s.drawFree).cfg = s.cfg := rfl
@[simp] theorem State.drawFree_a0 : (s.drawFree).a0 = s.a0 := rfl
@[simp] theorem State.drawFree_a1 : (s.drawFree).a1 = s.a1 := rfl
@[simp] theorem State.drawFree_a2 : (s.drawFree).a2 = s.a2 := rfl
@[simp] theorem State.drawFree_status : (s.drawFree).status = s.status := rfl
@[simp] theorem State.drawFree_res0 : (s.drawFree).res0 = s.res0 := rfl
@[simp] theorem State.drawFree_res1 : (s.drawFree).res1 = s.res1 := rfl
@[simp] theorem State.drawFree_pins : (s.drawFree).pins = s.pins := rfl
@[simp] theorem State.drawFree_slots : (s.drawFree).slots = s.slots := rfl
@[simp] theorem State.drawFree_trace : (s.drawFree).trace = s.trace := rfl
@[simp] theorem State.drawFree_inbox : (s.drawFree).inbox = s.inbox := rfl
@[simp] theorem State.drawFree_env : (s.drawFree).env = s.env := rfl

@[simp] theorem State.respond_cfg (st : Status) (x y : Word) : (s.respond st x y).cfg = s.cfg := rfl
@[simp] theorem State.respond_a0 (st : Status) (x y : Word) : (s.respond st x y).a0 = s.a0 := rfl
@[simp] theorem State.respond_a1 (st : Status) (x y : Word) : (s.respond st x y).a1 = s.a1 := rfl
@[simp] theorem State.respond_a2 (st : Status) (x y : Word) : (s.respond st x y).a2 = s.a2 := rfl
@[simp] theorem State.respond_pins (st : Status) (x y : Word) : (s.respond st x y).pins = s.pins := rfl
@[simp] theorem State.respond_slots (st : Status) (x y : Word) : (s.respond st x y).slots = s.slots := rfl
@[simp] theorem State.respond_trace (st : Status) (x y : Word) : (s.respond st x y).trace = s.trace := rfl
@[simp] theorem State.respond_inbox (st : Status) (x y : Word) : (s.respond st x y).inbox = s.inbox := rfl
@[simp] theorem State.respond_env (st : Status) (x y : Word) : (s.respond st x y).env = s.env := rfl
@[simp] theorem State.respond_freeCount (st : Status) (x y : Word) : (s.respond st x y).freeCount = s.freeCount := rfl

@[simp] theorem State.emit_trace (calls : List Call) : (s.emit calls).trace = s.trace ++ calls := rfl
@[simp] theorem State.drawFree_freeCount : s.drawFree.freeCount = s.freeCount + 1 := rfl
@[simp] theorem State.respond_status (st : Status) (x y : Word) : (s.respond st x y).status = st.word := rfl
@[simp] theorem State.respond_res0 (st : Status) (x y : Word) : (s.respond st x y).res0 = x := rfl
@[simp] theorem State.respond_res1 (st : Status) (x y : Word) : (s.respond st x y).res1 = y := rfl

@[simp] theorem State.emit_nil : s.emit [] = s := by simp [State.emit]
@[simp] theorem State.emit_emit (xs ys : List Call) : (s.emit xs).emit ys = s.emit (xs ++ ys) := by
  simp [State.emit]

theorem State.setPin_pin (p q : PinId) (r : PinRec) :
    (s.setPin p r).pin q = if q = p then r else s.pin q := by
  simp only [State.setPin, State.pin, Vector.getElem_set]
  by_cases h : q = p
  · simp [h]
  · have : p.toNat ≠ q.toNat := fun e => h (BitVec.eq_of_toNat_eq e.symm)
    simp [h, this]

@[simp] theorem State.setPin_pin_self (p : PinId) (r : PinRec) : (s.setPin p r).pin p = r := by
  simp [State.setPin_pin]

theorem State.setPin_pin_ne {p q : PinId} (h : q ≠ p) (r : PinRec) : (s.setPin p r).pin q = s.pin q := by
  simp [State.setPin_pin, h]

theorem State.setSlot_slot (v u : SlotId) (r : SlotRec) :
    (s.setSlot v r).slot u = if u = v then r else s.slot u := by
  simp only [State.setSlot, State.slot, Vector.getElem_set]
  by_cases h : u = v
  · simp [h]
  · have : v.toNat ≠ u.toNat := fun e => h (BitVec.eq_of_toNat_eq e.symm)
    simp [h, this]

@[simp] theorem State.setSlot_slot_self (v : SlotId) (r : SlotRec) : (s.setSlot v r).slot v = r := by
  simp [State.setSlot_slot]

@[simp] theorem State.setSlot_setSlot (v : SlotId) (r r' : SlotRec) :
    (s.setSlot v r).setSlot v r' = s.setSlot v r' := by
  simp [State.setSlot]

@[simp] theorem State.setSlot_slot_eq (v : SlotId) : s.setSlot v (s.slot v) = s := by
  simp [State.setSlot, State.slot]

theorem State.setSlot_emit (v : SlotId) (r : SlotRec) (calls : List Call) :
    (s.setSlot v r).emit calls = (s.emit calls).setSlot v r := rfl

theorem State.setSlot_slot_ne {v u : SlotId} (h : u ≠ v) (r : SlotRec) :
    (s.setSlot v r).slot u = s.slot u := by
  simp [State.setSlot_slot, h]

@[simp] theorem State.setSlot_pin (v : SlotId) (r : SlotRec) (q : PinId) : (s.setSlot v r).pin q = s.pin q := rfl
@[simp] theorem State.emit_pin (calls : List Call) (q : PinId) : (s.emit calls).pin q = s.pin q := rfl
@[simp] theorem State.drawFree_pin (q : PinId) : s.drawFree.pin q = s.pin q := rfl
@[simp] theorem State.respond_pin (st : Status) (x y : Word) (q : PinId) :
    (s.respond st x y).pin q = s.pin q := rfl
@[simp] theorem State.setPin_slot (p : PinId) (r : PinRec) (u : SlotId) : (s.setPin p r).slot u = s.slot u := rfl
@[simp] theorem State.emit_slot (calls : List Call) (u : SlotId) : (s.emit calls).slot u = s.slot u := rfl
@[simp] theorem State.drawFree_slot (u : SlotId) : s.drawFree.slot u = s.slot u := rfl
@[simp] theorem State.respond_slot (st : Status) (x y : Word) (u : SlotId) :
    (s.respond st x y).slot u = s.slot u := rfl

@[simp] theorem State.illegal_eq : s.illegal = s.respond .illegal 0 0 := rfl

@[simp] theorem State.accept_cfg (t : Transaction) (rest : List Transaction) : (s.accept t rest).cfg = s.cfg := rfl
@[simp] theorem State.accept_status (t : Transaction) (rest : List Transaction) : (s.accept t rest).status = s.status := rfl
@[simp] theorem State.accept_res0 (t : Transaction) (rest : List Transaction) : (s.accept t rest).res0 = s.res0 := rfl
@[simp] theorem State.accept_res1 (t : Transaction) (rest : List Transaction) : (s.accept t rest).res1 = s.res1 := rfl
@[simp] theorem State.accept_pins (t : Transaction) (rest : List Transaction) : (s.accept t rest).pins = s.pins := rfl
@[simp] theorem State.accept_slots (t : Transaction) (rest : List Transaction) : (s.accept t rest).slots = s.slots := rfl
@[simp] theorem State.accept_trace (t : Transaction) (rest : List Transaction) : (s.accept t rest).trace = s.trace := rfl
@[simp] theorem State.accept_freeCount (t : Transaction) (rest : List Transaction) : (s.accept t rest).freeCount = s.freeCount := rfl
@[simp] theorem State.accept_inbox (t : Transaction) (rest : List Transaction) : (s.accept t rest).inbox = rest := rfl
@[simp] theorem State.accept_env (t : Transaction) (rest : List Transaction) : (s.accept t rest).env = t.env := rfl
@[simp] theorem State.accept_pin (t : Transaction) (rest : List Transaction) (q : PinId) :
    (s.accept t rest).pin q = s.pin q := rfl
@[simp] theorem State.accept_slot (t : Transaction) (rest : List Transaction) (u : SlotId) :
    (s.accept t rest).slot u = s.slot u := rfl

@[simp] theorem State.resetOf_pin (c : Config) (q : PinId) : (State.resetOf c).pin q = {} := by
  simp [State.resetOf, State.pin]
@[simp] theorem State.resetOf_slot (c : Config) (u : SlotId) : (State.resetOf c).slot u = {} := by
  simp [State.resetOf, State.slot]

end Sys2Proof.Machine
end

