-- ==== Sys2Proof/Laws/Frame.lean ====
section
/-! SUPPORT. The frames of the shared operations: what each leaves unchanged and which calls it makes. -/

namespace Sys2Proof.Machine

theorem SamePort.refl (s : State) : SamePort s s := ⟨rfl, rfl, rfl, rfl, rfl, rfl⟩

theorem SamePort.trans {s t u : State} (h : SamePort s t) (k : SamePort t u) : SamePort s u := by
  obtain ⟨h1, h2, h3, h4, h5, h6⟩ := h
  obtain ⟨k1, k2, k3, k4, k5, k6⟩ := k
  exact ⟨k1.trans h1, k2.trans h2, k3.trans h3, k4.trans h4, k5.trans h5, k6.trans h6⟩

@[simp] theorem samePort_respond (s t : State) (st : Status) (x y : Word) :
    SamePort s (t.respond st x y) ↔ SamePort s t := Iff.rfl

@[simp] theorem samePort_emit (s t : State) (calls : List Call) :
    SamePort s (t.emit calls) ↔ SamePort s t := Iff.rfl

@[simp] theorem samePort_setPin (s t : State) (p : PinId) (r : PinRec) :
    SamePort s (t.setPin p r) ↔ SamePort s t := Iff.rfl

@[simp] theorem samePort_setSlot (s t : State) (v : SlotId) (r : SlotRec) :
    SamePort s (t.setSlot v r) ↔ SamePort s t := Iff.rfl

@[simp] theorem samePort_drawFree (s t : State) : SamePort s t.drawFree ↔ SamePort s t := Iff.rfl

/-- An operation on one pin: the port, every Speaker record and every other channel record stay, and calls
are only appended. -/
def PinFrame (p : PinId) (s t : State) : Prop :=
  SamePort s t ∧ SamePinsBut p s t ∧ t.slots = s.slots ∧ ∃ calls, Calls s t calls

theorem PinFrame.refl (p : PinId) (s : State) : PinFrame p s s :=
  ⟨.refl s, fun _ _ => rfl, rfl, [], by simp [Calls]⟩

theorem PinFrame.trans {p : PinId} {s t u : State} (h : PinFrame p s t) (k : PinFrame p t u) :
    PinFrame p s u := by
  obtain ⟨h1, h2, h3, cs, h4⟩ := h
  obtain ⟨k1, k2, k3, ds, k4⟩ := k
  refine ⟨h1.trans k1, fun q hq => (k2 q hq).trans (h2 q hq), k3.trans h3, cs ++ ds, ?_⟩
  rw [Calls, k4, h4, List.append_assoc]

theorem PinFrame.sameSlots {p : PinId} {s t : State} (h : PinFrame p s t) : SameSlots s t := fun u => by
  simp only [State.slot, h.2.2.1]

/-- Emitting calls and writing pin `p`'s record is an operation on pin `p`. -/
theorem PinFrame.emit_setPin (p : PinId) (s : State) (calls : List Call) (r : PinRec) :
    PinFrame p s ((s.emit calls).setPin p r) :=
  ⟨.refl s, fun q hq => by simp [State.setPin_pin_ne _ hq], rfl, calls, rfl⟩

theorem PinFrame.emit (p : PinId) (s : State) (calls : List Call) : PinFrame p s (s.emit calls) :=
  ⟨.refl s, fun _ _ => rfl, rfl, calls, rfl⟩

theorem PinFrame.drawFree {p : PinId} {s t : State} (h : PinFrame p s t) : PinFrame p s t.drawFree := h

theorem applyWord_frame (p : PinId) (cd : ClkDiv) (w : Word) (s : State) :
    PinFrame p s (applyWord p cd w s) := .emit_setPin ..

theorem cancelAlarm_frame (p : PinId) (s : State) : PinFrame p s (cancelAlarm p s) := by
  unfold cancelAlarm; split
  · exact .emit_setPin ..
  · exact .refl ..

theorem scheduleStop_frame (p : PinId) (dur : Word) (s : State) : PinFrame p s (scheduleStop p dur s) := by
  unfold scheduleStop; split
  · exact .emit_setPin ..
  · exact .refl ..

theorem ensureBound_frame (p : PinId) (s : State) : PinFrame p s (ensureBound p s).1 := by
  unfold ensureBound; split
  · exact .refl ..
  · split
    · exact .emit ..
    · exact .emit_setPin ..

theorem chStopOp_frame (p : PinId) (s : State) : PinFrame p s (chStopOp p s).1 := by
  unfold chStopOp; split
  · exact (cancelAlarm_frame p s).trans (PinFrame.emit_setPin ..).drawFree
  · exact .refl ..

theorem retuneOp_frame (p : PinId) (fq duty : Int) (s : State) : PinFrame p s (retuneOp p fq duty s).1 := by
  unfold retuneOp; dsimp only; split <;> [split; skip]
  · exact applyWord_frame ..
  · exact .refl ..
  · exact .refl ..

theorem startOp_frame (p : PinId) (fq duty : Int) (dur : Word) (s : State) :
    PinFrame p s (startOp p fq duty dur s).1 := by
  unfold startOp; dsimp only; split <;> [skip; split]
  · exact chStopOp_frame ..
  · have h := ensureBound_frame p s
    split <;> rename_i e <;> rw [e] at h
    · exact h
    · exact h.trans ((cancelAlarm_frame ..).trans ((applyWord_frame ..).trans (scheduleStop_frame ..)))
  · exact .refl ..

theorem alarmOp_frame (p : PinId) (s : State) : PinFrame p s (alarmOp p s).1 := by
  unfold alarmOp; split
  · exact PinFrame.trans (t := s.setPin p _) (by simpa using PinFrame.emit_setPin p s [] _)
      (chStopOp_frame ..)
  · exact .refl ..

end Sys2Proof.Machine
end

