-- ==== Sys2Proof/Laws/Channel.lean ====
section
/-! SUPPORT. What each shared operation of the Channel Output Stage can do, said once. -/

namespace Sys2Proof.Machine

/-- A handle the block may take: below `N_CHANNELS`, held by no bound pin, with a channel to spare (R158). -/
theorem claimAnswer_eq_some {s : State} {h : Nat} :
    s.claimAnswer = some h ↔
      s.env.claim = some h ∧ h < s.cfg.nChannels ∧ s.boundCount < s.cfg.nChannels ∧
        s.holdsHandle h = false := by
  unfold State.claimAnswer
  cases s.env.claim with
  | none => simp
  | some k =>
    simp only [Option.ite_none_right_eq_some, Option.some.injEq]
    constructor
    · rintro ⟨hk, rfl⟩; exact ⟨rfl, hk⟩
    · rintro ⟨rfl, hk⟩; exact ⟨hk, rfl⟩

theorem holdsHandle_eq_false {s : State} {h : Nat} :
    s.holdsHandle h = false ↔ ∀ p, (s.pin p).bound = true → (s.pin p).handle ≠ h := by
  simp only [State.holdsHandle, List.any_eq_false, Bool.and_eq_true, beq_iff_eq, not_and]
  constructor
  · exact fun H p => H (s.pin p) (by simp [State.pin])
  · intro H r hr
    obtain ⟨i, hi, rfl⟩ := List.getElem_of_mem hr
    have hi' : i < 2 ^ 8 := by simpa using hi
    have hm : i % 2 ^ 8 = i := Nat.mod_eq_of_lt hi'
    have e : s.pin (BitVec.ofNat 8 i) = s.pins.toList[i] := by
      simp only [State.pin, BitVec.toNat_ofNat, hm, Vector.getElem_toList]
    have := H (BitVec.ofNat 8 i)
    rwa [e] at this

/-- `Apply` enables the channel, and writes the divisor where the test of R153 says so. -/
theorem applyWord_pin (p : PinId) (cd : ClkDiv) (w : Word) (s : State) :
    (applyWord p cd w s).pin p = { s.pin p with hwen := true, lastcd := cd } := by
  simp [applyWord]

theorem applyWord_trace (p : PinId) (cd : ClkDiv) (w : Word) (s : State) :
    (applyWord p cd w s).trace = s.trace ++
      ((if (s.pin p).needsDivisor cd then [Call.setClockDivisor (s.pin p).handle cd] else []) ++
        [.clearBuffer (s.pin p).handle, .pushWord (s.pin p).handle w] ++
        (if (s.pin p).hwen then [] else [.setEnabled (s.pin p).handle true])) := by
  simp [applyWord]

theorem cancelAlarm_pin (p : PinId) (s : State) :
    (cancelAlarm p s).pin p = { s.pin p with alarmPend := false } := by
  unfold cancelAlarm; split <;> simp_all
  cases h : s.pin p; simp_all

theorem cancelAlarm_trace (p : PinId) (s : State) :
    (cancelAlarm p s).trace = s.trace ++ (if (s.pin p).alarmPend then [Call.cancelOnce p] else []) := by
  unfold cancelAlarm; split <;> simp_all

theorem scheduleStop_pin (p : PinId) (dur : Word) (s : State) :
    (scheduleStop p dur s).pin p =
      if 0 < uint32 dur then { s.pin p with alarmPend := true, alarmAt := addMs s.env.now dur } else s.pin p := by
  unfold scheduleStop; split <;> simp_all

theorem scheduleStop_trace (p : PinId) (dur : Word) (s : State) :
    (scheduleStop p dur s).trace =
      s.trace ++ (if 0 < uint32 dur then [Call.scheduleOnce dur p] else []) := by
  unfold scheduleStop; split <;> simp_all

/-- Binding a pin: it is bound already, the claim fails, or a lawful handle is taken (R152, R158). -/
theorem ensureBound_cases (p : PinId) (s : State) :
    ((s.pin p).bound = true ∧ ensureBound p s = (s, true)) ∨
    ((s.pin p).bound = false ∧ s.claimAnswer = none ∧
      ensureBound p s = (s.emit [.claimChannel p], false)) ∨
    (∃ h, (s.pin p).bound = false ∧ s.claimAnswer = some h ∧
      ensureBound p s = ((s.emit [.claimChannel p, .setEnabled h false]).setPin p
        { s.pin p with bound := true, handle := h, hwen := false }, true)) := by
  unfold ensureBound
  cases hb : (s.pin p).bound
  · cases hc : s.claimAnswer with
    | none => simp
    | some h => simp
  · simp

/-- CH_STOP: the pin is unbound and nothing happens, or its channel is released (R156). -/
theorem chStopOp_cases (p : PinId) (s : State) :
    ((s.pin p).bound = false ∧ chStopOp p s = (s, .notBound)) ∨
    ((s.pin p).bound = true ∧ (chStopOp p s).2 = .ok ∧
      (chStopOp p s).1.pin p =
        { s.pin p with
          hwen := false
          bound := false
          alarmPend := false
          handle := Config.unspecifiedHandle s.freeCount
          lastcd := Config.unspecifiedDivisor s.freeCount } ∧
      (chStopOp p s).1.trace = s.trace ++
        ((if (s.pin p).alarmPend then [Call.cancelOnce p] else []) ++
          [.setEnabled (s.pin p).handle false, .releaseChannel (s.pin p).handle, .setPinMode p .output,
            .writePin p s.cfg.idleLevel])) := by
  unfold chStopOp
  cases hb : (s.pin p).bound
  · simp
  · simp [cancelAlarm_pin, cancelAlarm_trace]

/-- EV_ALARM: no alarm is pending and nothing happens, or the spent alarm stops the tone (R157). -/
theorem alarmOp_cases (p : PinId) (s : State) :
    ((s.pin p).alarmPend = false ∧ alarmOp p s = (s, .noop)) ∨
    ((s.pin p).alarmPend = true ∧
      alarmOp p s = chStopOp p (s.setPin p { s.pin p with alarmPend := false })) := by
  unfold alarmOp
  cases h : (s.pin p).alarmPend
  · exact .inl ⟨rfl, by simp⟩
  · exact .inr ⟨rfl, by simp⟩

/-- RETUNE: the pin is unbound, Encode rejects, or the word is applied (R155, R159). -/
theorem retuneOp_cases (p : PinId) (fq duty : Int) (s : State) :
    let e := encodeFD s.cfg fq duty
    ((s.pin p).bound = false ∧ retuneOp p fq duty s = (s, .notBound)) ∨
    ((s.pin p).bound = true ∧ e.st ≠ .ok ∧ retuneOp p fq duty s = (s, e.st)) ∨
    ((s.pin p).bound = true ∧ e.st = .ok ∧ retuneOp p fq duty s = (applyWord p e.cd e.w s, .ok)) := by
  intro e
  unfold retuneOp
  cases hb : (s.pin p).bound
  · simp
  · by_cases he : e.st = .ok
    · simp [he, e]
    · simp [he, e]

/-- START: it stops, Encode rejects, the claim fails, or the tone plays (R150, R151, R159). -/
theorem startOp_cases (p : PinId) (fq duty : Int) (dur : Word) (s : State) :
    let e := encodeFD s.cfg fq duty
    (fq ≤ 0 ∧ startOp p fq duty dur s = chStopOp p s) ∨
    (0 < fq ∧ e.st ≠ .ok ∧ startOp p fq duty dur s = (s, e.st)) ∨
    (0 < fq ∧ e.st = .ok ∧ (s.pin p).bound = false ∧ s.claimAnswer = none ∧
      startOp p fq duty dur s = (s.emit [.claimChannel p], .noChannel)) ∨
    (0 < fq ∧ e.st = .ok ∧ (ensureBound p s).2 = true ∧
      startOp p fq duty dur s =
        (scheduleStop p dur (applyWord p e.cd e.w (cancelAlarm p (ensureBound p s).1)), .ok)) := by
  intro e
  unfold startOp
  by_cases h0 : fq ≤ 0
  · simp [h0]
  by_cases he : e.st = .ok
  · rcases ensureBound_cases p s with ⟨hb, h⟩ | ⟨hb, hc, h⟩ | ⟨k, hb, hc, h⟩
    · refine .inr (.inr (.inr ⟨by omega, he, by rw [h], ?_⟩))
      simp only [if_neg h0, show (encodeFD s.cfg fq duty).st = .ok from he, if_true, h]; rfl
    · refine .inr (.inr (.inl ⟨by omega, he, hb, hc, ?_⟩))
      simp only [if_neg h0, show (encodeFD s.cfg fq duty).st = .ok from he, if_true, h]
    · refine .inr (.inr (.inr ⟨by omega, he, by rw [h], ?_⟩))
      simp only [if_neg h0, show (encodeFD s.cfg fq duty).st = .ok from he, if_true, h]; rfl
  · refine .inr (.inl ⟨by omega, he, ?_⟩)
    simp only [if_neg h0]; exact if_neg he

end Sys2Proof.Machine
end

