-- ==== Sys2Proof/Laws/Decode.lean ====
section
/-! SUPPORT. The fields of the command word and of the packed operand words, and what a transaction that
decodes is. -/

namespace Sys2Proof

theorem cmdOpc_toNat (w : Word) : (cmdOpc w).toNat = w.toNat % 256 := by simp [cmdOpc]

theorem cmdTgt_toNat (w : Word) : (cmdTgt w).toNat = w.toNat / 256 % 256 := by
  simp [cmdTgt, Nat.shiftRight_eq_div_pow]

theorem cmdRsvd_toNat (w : Word) : (cmdRsvd w).toNat = w.toNat / 65536 := by
  have := w.isLt
  simp [cmdRsvd, Nat.shiftRight_eq_div_pow]
  omega

theorem shiftLeft_or_eq {a b k : Nat} (h : b < 2 ^ k) : a <<< k ||| b = a * 2 ^ k + b := by
  rw [Nat.shiftLeft_eq, mul_comm, Nat.two_pow_add_eq_or_of_lt h]

theorem commandWord_toNat (o : Opcode) (t : BitVec 8) :
    (commandWord o t).toNat = t.toNat * 256 + o.code.toNat := by
  have h1 := t.isLt
  have h2 := o.code.isLt
  simp only [commandWord, BitVec.toNat_or, BitVec.toNat_shiftLeft, BitVec.toNat_setWidth]
  rw [Nat.mod_eq_of_lt (a := t.toNat) (by omega), Nat.mod_eq_of_lt (a := o.code.toNat) (by omega),
    Nat.mod_eq_of_lt (by rw [Nat.shiftLeft_eq]; omega), shiftLeft_or_eq h2]
  rfl

theorem initWord_toNat (p : PinId) (aff : Bool) :
    (initWord p aff).toNat = aff.toNat * 256 + p.toNat := by
  have h1 := p.isLt
  have h2 := aff.toNat_le
  simp only [initWord, BitVec.toNat_or, BitVec.toNat_shiftLeft, BitVec.toNat_setWidth, BitVec.toNat_ofBool]
  rw [Nat.mod_eq_of_lt (a := p.toNat) (by omega), Nat.mod_eq_of_lt (a := aff.toNat) (by omega),
    Nat.mod_eq_of_lt (by rw [Nat.shiftLeft_eq]; omega), shiftLeft_or_eq h1]
  rfl

@[simp] theorem ofCode_code (o : Opcode) : Opcode.ofCode o.code = some o := by cases o <;> rfl

theorem code_of_ofCode {b : BitVec 8} {o : Opcode} (h : Opcode.ofCode b = some o) : o.code = b := by
  simpa using List.find?_some h

@[simp] theorem cmdOpc_commandWord (o : Opcode) (t : BitVec 8) : cmdOpc (commandWord o t) = o.code := by
  apply BitVec.eq_of_toNat_eq
  rw [cmdOpc_toNat, commandWord_toNat]
  have := o.code.isLt
  omega

@[simp] theorem cmdTgt_commandWord (o : Opcode) (t : BitVec 8) : cmdTgt (commandWord o t) = t := by
  apply BitVec.eq_of_toNat_eq
  rw [cmdTgt_toNat, commandWord_toNat]
  have := o.code.isLt
  have := t.isLt
  omega

@[simp] theorem cmdRsvd_commandWord (o : Opcode) (t : BitVec 8) : cmdRsvd (commandWord o t) = 0 := by
  apply BitVec.eq_of_toNat_eq
  rw [cmdRsvd_toNat, commandWord_toNat]
  have := o.code.isLt
  have := t.isLt
  simp only [BitVec.ofNat_eq_ofNat, BitVec.toNat_ofNat]
  omega

@[simp] theorem operandCount_command (i : Instr) :
    operandCount i.command = i.opcode.format.operandCount := by
  simp [operandCount, Instr.command]

/-- A field that reaches bit 31 is 0 exactly when the word is below the field. -/
theorem extract_high_eq_zero (w : Word) {k n : Nat} (h : k + n = 32) :
    w.extractLsb' k n = 0 ↔ w.toNat / 2 ^ k = 0 := by
  rw [← BitVec.toNat_inj, BitVec.extractLsb'_toNat, Nat.shiftRight_eq_div_pow]
  have h1 : w.toNat / 2 ^ k < 2 ^ n := by
    rw [Nat.div_lt_iff_lt_mul (by positivity), ← pow_add, add_comm, h]
    exact w.isLt
  rw [Nat.mod_eq_of_lt h1]
  simp

theorem extract_low_toNat (w : Word) : (w.extractLsb' 0 8).toNat = w.toNat % 256 := by simp

theorem getLsbD_eq_decide (w : Word) (k : Nat) : w.getLsbD k = decide (w.toNat / 2 ^ k % 2 = 1) := by
  rw [BitVec.getLsbD, Nat.testBit_eq_decide_div_mod_eq]

/-- SPK_INIT's `A0` reads back its fields (R91). -/
theorem initWord_fields (p : PinId) (aff : Bool) :
    (initWord p aff).extractLsb' 9 23 = 0 ∧ (initWord p aff).extractLsb' 0 8 = p ∧
      (initWord p aff).getLsbD 8 = aff := by
  have h0 := p.isLt
  have h := initWord_toNat p aff
  refine ⟨?_, ?_, ?_⟩
  · rw [extract_high_eq_zero _ rfl, h]; cases aff <;> simp <;> omega
  · apply BitVec.eq_of_toNat_eq; rw [extract_low_toNat, h]; cases aff <;> simp <;> omega
  · rw [getLsbD_eq_decide, h]; cases aff <;> simp <;> omega

/-- An `A0` with its reserved bits 0 is the word of its fields (R91). -/
theorem initWord_of_fields {a : Word} (h : a.extractLsb' 9 23 = 0) :
    initWord (a.extractLsb' 0 8) (a.getLsbD 8) = a := by
  rw [extract_high_eq_zero _ rfl] at h
  apply BitVec.eq_of_toNat_eq
  rw [initWord_toNat, extract_low_toNat, getLsbD_eq_decide]
  by_cases hh : a.toNat / 2 ^ 8 % 2 = 1 <;>
    simp only [hh, decide_true, decide_false, Bool.toNat_true, Bool.toNat_false] <;> omega

/-- SPK_SET_WAVE's `A0` reads back its index (R92). -/
theorem waveWord_fields (w : BitVec 8) :
    (w.setWidth 32).extractLsb' 8 24 = 0 ∧ (w.setWidth 32).extractLsb' 0 8 = w := by
  have h0 := w.isLt
  have h : (w.setWidth 32).toNat = w.toNat := by simp; omega
  refine ⟨?_, ?_⟩
  · rw [extract_high_eq_zero _ rfl, h]; omega
  · apply BitVec.eq_of_toNat_eq; rw [extract_low_toNat, h]; omega

/-- An `A0` with its reserved bits 0 is the word of its index (R92). -/
theorem waveWord_of_fields {a : Word} (h : a.extractLsb' 8 24 = 0) :
    (a.extractLsb' 0 8).setWidth 32 = a := by
  rw [extract_high_eq_zero _ rfl] at h
  apply BitVec.eq_of_toNat_eq
  rw [BitVec.toNat_setWidth, extract_low_toNat]
  omega

/-- What a transaction that decodes has for its opcode, its target, its reserved bits and its operands. -/
theorem decode_ok {cmd a0 a1 a2 : Word} {i : Instr} (h : decode cmd a0 a1 a2 = .ok i) :
    Opcode.ofCode (cmdOpc cmd) = some i.opcode ∧ i.opcode.code = cmdOpc cmd ∧ i.target = cmdTgt cmd ∧
      cmdRsvd cmd = 0 ∧ i.operands = [a0, a1, a2].take i.opcode.format.operandCount ∧
      decodeAs i.opcode (cmdTgt cmd) a0 a1 a2 = .ok i := by
  unfold decode at h
  split at h
  · cases h
  · rename_i o ho
    have hc := code_of_ofCode ho
    split at h
    · rename_i hr
      have h' := h
      cases o <;> simp only [decodeAs] at h <;> (try split at h) <;> (try cases h)
      all_goals refine ⟨ho, hc, ?_, hr, ?_, h'⟩
      all_goals first | rfl | (symm; assumption) | skip
      all_goals simp only [Instr.operands, Instr.opcode, Opcode.format, Format.operandCount]
      · rw [initWord_of_fields ‹_›]; rfl
      · rw [waveWord_of_fields ‹_›]; rfl
    · cases h

end Sys2Proof
end

