-- ==== Sys2Proof/Laws/Encoder.lean ====
section
/-! SUPPORT. What Encode can answer, said once. -/

namespace Sys2Proof.Machine

@[simp] theorem Encoded.reject_st (st : Status) : (Encoded.reject st).st = st := rfl
@[simp] theorem Encoded.reject_cd (st : Status) : (Encoded.reject st).cd = 0 := rfl
@[simp] theorem Encoded.reject_w (st : Status) : (Encoded.reject st).w = 0 := rfl

theorem limit_pos (c : Config) : 0 < c.limit := by unfold Config.limit; omega

/-- The first step of R121, R124, R125 and R126 that rejects, or the split of R127 and R128. -/
theorem encodeFD_cases (c : Config) (fq duty : Int) :
    let cd := clockDivisor c (requiredCycles c fq.toNat)
    let total := totalCycles c fq.toNat cd
    let var := total - c.overhead
    (fq ≤ 0 ∧ encodeFD c fq duty = .reject .rejFreqNonpos) ∨
    (0 < fq ∧ maxDivisor c < cd ∧ encodeFD c fq duty = .reject .rejFreqTooLow) ∨
    (0 < fq ∧ cd ≤ maxDivisor c ∧ total ≤ c.overhead ∧ encodeFD c fq duty = .reject .rejFreqTooHigh) ∨
    (0 < fq ∧ cd ≤ maxDivisor c ∧ c.overhead < total ∧ var < 2 * c.minPhase ∧
      encodeFD c fq duty = .reject .rejPhaseTooShort) ∨
    (0 < fq ∧ cd ≤ maxDivisor c ∧ c.overhead < total ∧ 2 * c.minPhase ≤ var ∧
      encodeFD c fq duty = packSplit c cd var (clampUnit c duty)) := by
  intro cd total var
  by_cases h0 : fq ≤ 0
  · exact .inl ⟨h0, by simp [encodeFD, h0]⟩
  by_cases h1 : maxDivisor c < cd
  · exact .inr (.inl ⟨by omega, h1, by simp only [encodeFD, if_neg h0]; exact if_pos h1⟩)
  by_cases h2 : total ≤ c.overhead
  · exact .inr (.inr (.inl ⟨by omega, by omega, h2, by
      simp only [encodeFD, if_neg h0]; rw [if_neg h1]; exact if_pos h2⟩))
  by_cases h3 : var < 2 * c.minPhase
  · exact .inr (.inr (.inr (.inl ⟨by omega, by omega, by omega, h3, by
      simp only [encodeFD, if_neg h0]; rw [if_neg h1, if_neg h2]; exact if_pos h3⟩)))
  · exact .inr (.inr (.inr (.inr ⟨by omega, by omega, by omega, by omega, by
      simp only [encodeFD, if_neg h0]; rw [if_neg h1, if_neg h2]; exact if_neg h3⟩)))

/-- A split that fits packs both phases (R128). -/
theorem packSplit_cases (c : Config) (cd var d : Nat) :
    let ph := highPhase c var d - c.minPhase
    let pl := var - highPhase c var d - c.minPhase
    ((65535 < ph ∨ 65535 < pl) ∧ packSplit c cd var d = .reject .rejPackOverflow) ∨
    (ph ≤ 65535 ∧ pl ≤ 65535 ∧
      packSplit c cd var d = { st := .ok, cd := BitVec.ofNat 25 cd, w := packPhases ph pl }) := by
  intro ph pl
  by_cases h : 65535 < ph ∨ 65535 < pl
  · exact .inl ⟨h, if_pos h⟩
  · exact .inr ⟨by omega, by omega, if_neg h⟩

/-- The clamp of R127 keeps both phases at `MIN_PHASE` or more. -/
theorem highPhase_bounds {c : Config} {var : Nat} (d : Nat) (h : 2 * c.minPhase ≤ var) :
    c.minPhase ≤ highPhase c var d ∧ highPhase c var d ≤ var - c.minPhase :=
  clamp_of_le (by omega)

end Sys2Proof.Machine
end

