-- ==== Sys2Proof/Laws/PerInstr.lean ====
section
/-! SUPPORT. Facts about every operation as syntax, one lemma per constructor. -/

namespace Sys2Proof.Laws.TransactionLength

/-- The transaction of an operation has the command word and as many operand words as its opcode's format
names (R80, R82). -/
def Statement (i : Instr) : Prop := (encode i).length = 1 + i.opcode.format.operandCount

theorem encode (fq : Word) (duty : Word) : Statement (.encode fq duty) := rfl
theorem start (p : PinId) (fq : Word) (duty : Word) (dur : Word) : Statement (.start p fq duty dur) := rfl
theorem retune (p : PinId) (fq : Word) (duty : Word) : Statement (.retune p fq duty) := rfl
theorem chStop (p : PinId) : Statement (.chStop p) := rfl
theorem spkInit (v : SlotId) (p : PinId) (aff : Bool) (fq : Word) (vol : Word) : Statement (.spkInit v p aff fq vol) := rfl
theorem spkSetFreq (v : SlotId) (fq : Word) : Statement (.spkSetFreq v fq) := rfl
theorem spkSetVol (v : SlotId) (vol : Word) : Statement (.spkSetVol v vol) := rfl
theorem spkSetWave (v : SlotId) (w : BitVec 8) : Statement (.spkSetWave v w) := rfl
theorem spkPlay (v : SlotId) (d : Word) : Statement (.spkPlay v d) := rfl
theorem spkStop (v : SlotId) : Statement (.spkStop v) := rfl
theorem spkGetFreq (v : SlotId) : Statement (.spkGetFreq v) := rfl
theorem spkGetVol (v : SlotId) : Statement (.spkGetVol v) := rfl
theorem spkIsPlaying (v : SlotId) : Statement (.spkIsPlaying v) := rfl
theorem evTick (v : SlotId) : Statement (.evTick v) := rfl
theorem evAlarm (p : PinId) : Statement (.evAlarm p) := rfl

end Sys2Proof.Laws.TransactionLength

namespace Sys2Proof.Laws.OpcodeLookup

/-- The opcode map gives an operation's opcode back from its number (R94). -/
def Statement (i : Instr) : Prop := Opcode.ofCode i.opcode.code = some i.opcode

theorem encode (fq : Word) (duty : Word) : Statement (.encode fq duty) := rfl
theorem start (p : PinId) (fq : Word) (duty : Word) (dur : Word) : Statement (.start p fq duty dur) := rfl
theorem retune (p : PinId) (fq : Word) (duty : Word) : Statement (.retune p fq duty) := rfl
theorem chStop (p : PinId) : Statement (.chStop p) := rfl
theorem spkInit (v : SlotId) (p : PinId) (aff : Bool) (fq : Word) (vol : Word) : Statement (.spkInit v p aff fq vol) := rfl
theorem spkSetFreq (v : SlotId) (fq : Word) : Statement (.spkSetFreq v fq) := rfl
theorem spkSetVol (v : SlotId) (vol : Word) : Statement (.spkSetVol v vol) := rfl
theorem spkSetWave (v : SlotId) (w : BitVec 8) : Statement (.spkSetWave v w) := rfl
theorem spkPlay (v : SlotId) (d : Word) : Statement (.spkPlay v d) := rfl
theorem spkStop (v : SlotId) : Statement (.spkStop v) := rfl
theorem spkGetFreq (v : SlotId) : Statement (.spkGetFreq v) := rfl
theorem spkGetVol (v : SlotId) : Statement (.spkGetVol v) := rfl
theorem spkIsPlaying (v : SlotId) : Statement (.spkIsPlaying v) := rfl
theorem evTick (v : SlotId) : Statement (.evTick v) := rfl
theorem evAlarm (p : PinId) : Statement (.evAlarm p) := rfl

end Sys2Proof.Laws.OpcodeLookup
end

