-- ==== Sys2Proof/Laws/Speaker.lean ====
section
/-! SUPPORT. What the shared operations of the Speaker slots and of the pipeline can do, said once. -/

namespace Sys2Proof.Machine

/-- A channel operation of an existing pin runs (R95 item 4). -/
theorem checkPin_of_lt {p : PinId} {s : State} (h : p.toNat < s.cfg.nPins) (k : Result) :
    checkPin p s k = k := if_pos h

/-- A channel operation of a pin the block has not is ILLEGAL (R95 item 4). -/
theorem checkPin_of_le {p : PinId} {s : State} (h : s.cfg.nPins ≤ p.toNat) (k : Result) :
    checkPin p s k = .next s.illegal := if_neg (by omega)

/-- A Speaker operation of a constructed slot runs (R95 items 5 and 8). -/
theorem checkSlot_of_valid {v : SlotId} {s : State} (h : v.toNat < s.cfg.nSlots)
    (hv : (s.slot v).valid = true) (k : Result) : checkSlot v s k = k := if_pos ⟨h, hv⟩

/-- A Speaker operation of any other slot is ILLEGAL (R95 items 5 and 8). -/
theorem checkSlot_of_not {v : SlotId} {s : State}
    (h : ¬(v.toNat < s.cfg.nSlots ∧ (s.slot v).valid = true)) (k : Result) :
    checkSlot v s k = .next s.illegal := if_neg h

section Records

variable (r : SlotRec) (c : Config)

@[simp] theorem SlotRec.withPeriod_valid : (r.withPeriod c).valid = r.valid := rfl
@[simp] theorem SlotRec.withPeriod_pin : (r.withPeriod c).pin = r.pin := rfl
@[simp] theorem SlotRec.withPeriod_wave : (r.withPeriod c).wave = r.wave := rfl
@[simp] theorem SlotRec.withPeriod_pendValid : (r.withPeriod c).pendValid = r.pendValid := rfl
@[simp] theorem SlotRec.withPeriod_pend : (r.withPeriod c).pend = r.pend := rfl
@[simp] theorem SlotRec.withPeriod_freq : (r.withPeriod c).freq = r.freq := rfl
@[simp] theorem SlotRec.withPeriod_vol : (r.withPeriod c).vol = r.vol := rfl
@[simp] theorem SlotRec.withPeriod_scale : (r.withPeriod c).scale = r.scale := rfl
@[simp] theorem SlotRec.withPeriod_playing : (r.withPeriod c).playing = r.playing := rfl
@[simp] theorem SlotRec.withPeriod_index : (r.withPeriod c).index = r.index := rfl
@[simp] theorem SlotRec.withPeriod_dlValid : (r.withPeriod c).dlValid = r.dlValid := rfl
@[simp] theorem SlotRec.withPeriod_dirty : (r.withPeriod c).dirty = r.dirty := rfl
@[simp] theorem SlotRec.withPeriod_tmrReg : (r.withPeriod c).tmrReg = r.tmrReg := rfl
@[simp] theorem SlotRec.withPeriod_period :
    (r.withPeriod c).period = BitVec.ofNat 32 (stepPeriod c (waveSize c r.wave) (sint32 r.freq)) := rfl
@[simp] theorem SlotRec.withPeriod_aff : (r.withPeriod c).aff = r.aff := rfl
@[simp] theorem SlotRec.withPeriod_dl : (r.withPeriod c).dl = r.dl := rfl
@[simp] theorem SlotRec.withPeriod_tmrInterval : (r.withPeriod c).tmrInterval = r.tmrInterval := rfl

@[simp] theorem SlotRec.withVolume_valid (z : Int) : (r.withVolume c z).valid = r.valid := rfl
@[simp] theorem SlotRec.withVolume_pin (z : Int) : (r.withVolume c z).pin = r.pin := rfl
@[simp] theorem SlotRec.withVolume_aff (z : Int) : (r.withVolume c z).aff = r.aff := rfl
@[simp] theorem SlotRec.withVolume_wave (z : Int) : (r.withVolume c z).wave = r.wave := rfl
@[simp] theorem SlotRec.withVolume_pendValid (z : Int) : (r.withVolume c z).pendValid = r.pendValid := rfl
@[simp] theorem SlotRec.withVolume_pend (z : Int) : (r.withVolume c z).pend = r.pend := rfl
@[simp] theorem SlotRec.withVolume_freq (z : Int) : (r.withVolume c z).freq = r.freq := rfl
@[simp] theorem SlotRec.withVolume_period (z : Int) : (r.withVolume c z).period = r.period := rfl
@[simp] theorem SlotRec.withVolume_playing (z : Int) : (r.withVolume c z).playing = r.playing := rfl
@[simp] theorem SlotRec.withVolume_index (z : Int) : (r.withVolume c z).index = r.index := rfl
@[simp] theorem SlotRec.withVolume_dlValid (z : Int) : (r.withVolume c z).dlValid = r.dlValid := rfl
@[simp] theorem SlotRec.withVolume_dl (z : Int) : (r.withVolume c z).dl = r.dl := rfl
@[simp] theorem SlotRec.withVolume_dirty (z : Int) : (r.withVolume c z).dirty = r.dirty := rfl
@[simp] theorem SlotRec.withVolume_tmrReg (z : Int) : (r.withVolume c z).tmrReg = r.tmrReg := rfl
@[simp] theorem SlotRec.withVolume_tmrInterval (z : Int) : (r.withVolume c z).tmrInterval = r.tmrInterval := rfl

@[simp] theorem SlotRec.withDeadline_valid (now : Time) (d : Word) : (r.withDeadline now d).valid = r.valid := rfl
@[simp] theorem SlotRec.withDeadline_pin (now : Time) (d : Word) : (r.withDeadline now d).pin = r.pin := rfl
@[simp] theorem SlotRec.withDeadline_aff (now : Time) (d : Word) : (r.withDeadline now d).aff = r.aff := rfl
@[simp] theorem SlotRec.withDeadline_wave (now : Time) (d : Word) : (r.withDeadline now d).wave = r.wave := rfl
@[simp] theorem SlotRec.withDeadline_pendValid (now : Time) (d : Word) : (r.withDeadline now d).pendValid = r.pendValid := rfl
@[simp] theorem SlotRec.withDeadline_pend (now : Time) (d : Word) : (r.withDeadline now d).pend = r.pend := rfl
@[simp] theorem SlotRec.withDeadline_freq (now : Time) (d : Word) : (r.withDeadline now d).freq = r.freq := rfl
@[simp] theorem SlotRec.withDeadline_vol (now : Time) (d : Word) : (r.withDeadline now d).vol = r.vol := rfl
@[simp] theorem SlotRec.withDeadline_scale (now : Time) (d : Word) : (r.withDeadline now d).scale = r.scale := rfl
@[simp] theorem SlotRec.withDeadline_period (now : Time) (d : Word) : (r.withDeadline now d).period = r.period := rfl
@[simp] theorem SlotRec.withDeadline_playing (now : Time) (d : Word) : (r.withDeadline now d).playing = r.playing := rfl
@[simp] theorem SlotRec.withDeadline_index (now : Time) (d : Word) : (r.withDeadline now d).index = r.index := rfl
@[simp] theorem SlotRec.withDeadline_dirty (now : Time) (d : Word) : (r.withDeadline now d).dirty = r.dirty := rfl
@[simp] theorem SlotRec.withDeadline_tmrReg (now : Time) (d : Word) : (r.withDeadline now d).tmrReg = r.tmrReg := rfl
@[simp] theorem SlotRec.withDeadline_tmrInterval (now : Time) (d : Word) : (r.withDeadline now d).tmrInterval = r.tmrInterval := rfl
@[simp] theorem SlotRec.withDeadline_dl (now : Time) (d : Word) : (r.withDeadline now d).dl = addMs now d := rfl
@[simp] theorem SlotRec.withDeadline_dlValid (now : Time) (d : Word) : (r.withDeadline now d).dlValid = true := rfl

end Records

/-- A step period fits the 32 bits of `PERIOD` (R181). -/
theorem stepPeriod_lt {c : Config} (h : c.FormatsLegal) (n : Nat) (fq : Int) : stepPeriod c n fq < 2 ^ 32 := by
  have hle : fdiv (10 ^ 6 * 2 ^ 8) (n * fq.toNat) ≤ 10 ^ 6 * 2 ^ 8 := Nat.div_le_self ..
  rw [stepPeriod, h.1]
  omega

theorem SlotRec.withPeriod_period_toNat (r : SlotRec) {c : Config} (h : c.FormatsLegal) :
    (r.withPeriod c).period.toNat = stepPeriod c (waveSize c r.wave) (sint32 r.freq) := by
  rw [SlotRec.withPeriod_period, BitVec.toNat_ofNat, Nat.mod_eq_of_lt (stepPeriod_lt h ..)]

/-- The step period a slot stores is at least 1 (R37). -/
theorem SlotRec.withPeriod_period_pos (r : SlotRec) {c : Config} (h : c.FormatsLegal) :
    1 ≤ (r.withPeriod c).period.toNat := by
  rw [r.withPeriod_period_toNat h]
  exact Nat.le_max_left ..

/-- The volume a slot stores is the clamped operand (R35). -/
theorem SlotRec.withVolume_vol_toNat (r : SlotRec) {c : Config} (h : c.FormatsLegal) (z : Int) :
    (r.withVolume c z).vol.toNat = clampUnit c z := by
  have := clampUnit_le c z
  rw [unit_of_formatsLegal h] at this
  simp only [SlotRec.withVolume, BitVec.toNat_ofNat]
  omega

/-- The volume a slot stores is at most 1 (R35). -/
theorem SlotRec.withVolume_vol_le (r : SlotRec) {c : Config} (h : c.FormatsLegal) (z : Int) :
    (r.withVolume c z).vol.toNat ≤ 65536 := by
  rw [r.withVolume_vol_toNat h, ← unit_of_formatsLegal h]
  exact clampUnit_le c z

/-- SPK_STOP: nothing on a stopped slot, or the timer is cancelled and the pin's channel stopped (R187). -/
theorem spkStopOp_cases (v : SlotId) (s : State) :
    let r := s.slot v
    let s1 := (s.setSlot v { r with playing := false, dlValid := false, tmrReg := false }).emit
      [.cancelRepeating v]
    (r.playing = false ∧ spkStopOp v s = (s, .noop, 0, 0)) ∨
    (r.playing = true ∧
      spkStopOp v s = ((chStopOp r.pin s1).1, .ok, (chStopOp r.pin s1).2.word, 0)) := by
  intro r s1
  unfold spkStopOp
  cases h : (s.slot v).playing
  · exact .inl ⟨rfl, by simp⟩
  · exact .inr ⟨rfl, by simp [s1, r]⟩

/-- The start branch of SPK_PLAY: the carrier START's channel effect, then the timer and the slot (R186). -/
theorem spkPlayStart_spec (v : SlotId) (d : Word) (s : State) :
    let r := s.slot v
    let u := (startOp r.pin (carrierFq s.cfg) 0 0 s).1
    let r1 := { r with tmrReg := true, tmrInterval := r.period, playing := true }
    spkPlayStart v d s =
      ((u.emit [.scheduleRepeating r.period v]).setSlot v
        (if 0 < uint32 d then r1.withDeadline s.env.now d else r1),
       (startOp r.pin (carrierFq s.cfg) 0 0 s).2) := rfl

/-- Step 3 of EV_TICK leaves the record, or commits the pending swap at the wrap point (R220, R225). -/
theorem SlotRec.commitSwap_cases (r : SlotRec) (c : Config) :
    (¬(r.index = 0 ∧ r.pendValid = true) ∧ r.commitSwap c = r) ∨
    (r.index = 0 ∧ r.pendValid = true ∧
      r.commitSwap c = { ({ r with wave := r.pend, pendValid := false }).withPeriod c with dirty := true }) := by
  unfold SlotRec.commitSwap SlotRec.swapDue
  by_cases h : r.index = 0 ∧ r.pendValid = true
  · exact .inr ⟨h.1, h.2, by simp [h.1, h.2]⟩
  · refine .inl ⟨h, if_neg ?_⟩
    simpa using h

/-- Step 4 of EV_TICK: the slot's record after it (R220). -/
theorem tickRearm_slot (v : SlotId) (s : State) :
    (tickRearm v s).slot v =
      if (s.slot v).dirty then { s.slot v with tmrInterval := (s.slot v).period, dirty := false }
      else s.slot v := by
  unfold tickRearm; dsimp only; split <;> simp_all

/-- Step 4 of EV_TICK: the calls it makes (R220). -/
theorem tickRearm_trace (v : SlotId) (s : State) :
    (tickRearm v s).trace =
      s.trace ++ (if (s.slot v).dirty then [Call.rearm (s.slot v).period v] else []) := by
  unfold tickRearm; dsimp only; split <;> simp_all

/-- Step 4 of EV_TICK changes nothing else. -/
theorem tickRearm_frame (v : SlotId) (s : State) :
    SamePort s (tickRearm v s) ∧ (tickRearm v s).pins = s.pins ∧ SameSlotsBut v s (tickRearm v s) := by
  unfold tickRearm; dsimp only; split
  · exact ⟨.refl s, rfl, fun u hu => by simp [State.setSlot_slot_ne _ hu]⟩
  · exact ⟨.refl s, rfl, fun u hu => rfl⟩

/-- Step 5 of EV_TICK: the index advances and the pin is retuned to the carrier at the step's duty (R220). -/
theorem tickPublish_spec (v : SlotId) (s : State) :
    let r := s.slot v
    let s1 := s.setSlot v { r with index := nextIndex s.cfg r }
    tickPublish v s =
      ((retuneOp r.pin (carrierFq s.cfg) (tickDuty v s) s1).1,
       (retuneOp r.pin (carrierFq s.cfg) (tickDuty v s) s1).2, tickDuty v s) := rfl

/-- Steps 3 and 4 of EV_TICK together: the record they leave, and the calls they make (R220). -/
theorem tickRearm_commitSwap (v : SlotId) (s : State) :
    let r := (s.slot v).commitSwap s.cfg
    tickRearm v (s.setSlot v r) =
      (s.emit (if r.dirty then [.rearm r.period v] else [])).setSlot v
        { r with tmrInterval := if r.dirty then r.period else r.tmrInterval, dirty := false } := by
  intro r
  unfold tickRearm
  simp only [State.setSlot_slot_self]
  cases h : r.dirty
  · simp only [Bool.false_eq_true, if_false, State.emit_nil]
    rw [show { r with tmrInterval := r.tmrInterval, dirty := false } = r by rw [← h]]
  · simp [State.setSlot_emit]

/-- A tick that neither is a no-op nor stops, in one equation (R220 steps 3 to 5): the record it leaves, the
re-arm it calls, and the RETUNE of the carrier at the step's duty. -/
theorem execEvTick_publish {v : SlotId} {s : State} (hs : v.toNat < s.cfg.nSlots)
    (hv : (s.slot v).valid = true) (hp : (s.slot v).playing = true)
    (hd : (s.slot v).deadlinePassed s.env.now = false) :
    let r := (s.slot v).commitSwap s.cfg
    let d := scaleSample (sample s.cfg r.wave r.index.toNat s.env.noise) r.scale.toNat
    let s1 :=
      (s.emit (if r.dirty then [.rearm r.period v] else [])).setSlot v
        { r with
          tmrInterval := if r.dirty then r.period else r.tmrInterval
          dirty := false
          index := nextIndex s.cfg r }
    let u := retuneOp r.pin (carrierFq s.cfg) d s1
    execEvTick v s = .next (u.1.respond .ok u.2.word (BitVec.ofNat 32 d)) := by
  intro r d s1 u
  rw [execEvTick, checkSlot_of_valid hs hv]
  simp only [hp, hd, if_true, Bool.false_eq_true, if_false]
  rw [tickRearm_commitSwap, tickPublish_spec]
  simp only [u, s1, d, tickDuty, nextIndex, State.setSlot_slot_self, State.setSlot_setSlot,
    State.setSlot_cfg, State.emit_cfg, State.setSlot_env, State.emit_env, r]

end Sys2Proof.Machine
end

