-- ==== Sys2Proof/Laws/Step.lean ====
section
/-! SUPPORT. What a step can do, said once. -/

namespace Sys2Proof.Machine

/-- The latches hold every operand word the decoder reads, so the port decodes what the issuer wrote (R82). -/
theorem accept_fetched (s : State) (t : Transaction) (rest : List Transaction) :
    (s.accept t rest).fetched t = decode t.cmd t.a0 t.a1 t.a2 := by
  simp only [State.fetched, State.accept, State.latch]
  cases h : Opcode.ofCode (cmdOpc t.cmd) with
  | none => simp [decode, h]
  | some o => cases o <;> simp [decode, operandCount, h, decodeAs, Opcode.format, Format.operandCount]

/-- A legal configuration has the formats of R84 to R87 (log entry 10). -/
theorem formatsLegal_of_configLegal {c : Config} (h : configLegal c = true) : c.FormatsLegal := by
  simp only [configLegal, Bool.and_eq_true, decide_eq_true_eq] at h
  exact h.1.1.1.1.1.1.2

/-- A step refuses an illegal configuration, idles on an empty port, answers ILLEGAL, or executes. -/
theorem step_cases (s : State) :
    (configLegal s.cfg = false ∧ step s = .refused .illegalConfiguration) ∨
    (configLegal s.cfg = true ∧ s.inbox = [] ∧ step s = .next s) ∨
    (∃ t rest, configLegal s.cfg = true ∧ s.inbox = t :: rest ∧
      ((∃ e, (s.accept t rest).fetched t = .error e ∧ step s = .next (s.accept t rest).illegal) ∨
        (∃ i, (s.accept t rest).fetched t = .ok i ∧ step s = exec i (s.accept t rest)))) := by
  unfold step
  cases hc : configLegal s.cfg
  · exact .inl ⟨rfl, by simp⟩
  · refine .inr ?_
    cases hi : s.inbox with
    | nil => exact .inl ⟨rfl, rfl, by simp⟩
    | cons t rest =>
      refine .inr ⟨t, rest, rfl, rfl, ?_⟩
      cases hd : (s.accept t rest).fetched t with
      | error e => exact .inl ⟨e, rfl, by simp [hd]⟩
      | ok i => exact .inr ⟨i, rfl, by simp [hd]⟩

/-- What a step answers when it answers a next state. -/
theorem step_next_cases {s u : State} (h : step s = .next u) :
    configLegal s.cfg = true ∧
    ((s.inbox = [] ∧ u = s) ∨
     (∃ t rest, s.inbox = t :: rest ∧
       (u = (s.accept t rest).illegal ∨ ∃ i, exec i (s.accept t rest) = .next u))) := by
  rcases step_cases s with ⟨hc, h'⟩ | ⟨hc, hi, h'⟩ | ⟨t, rest, hc, hi, ⟨e, _, h'⟩ | ⟨i, _, h'⟩⟩ <;>
    rw [h'] at h
  · cases h
  · cases h; exact ⟨hc, .inl ⟨hi, rfl⟩⟩
  · cases h; exact ⟨hc, .inr ⟨t, rest, hi, .inl rfl⟩⟩
  · exact ⟨hc, .inr ⟨t, rest, hi, .inr ⟨i, h⟩⟩⟩

end Sys2Proof.Machine
end

