-- ==== Sys2Proof/Tests/Slice0.lean ====
section
/-! SUPPORT. Tests of the model. Every expected value is one of spec/95_test_vectors.md, whose vector the
test's docstring names, unless it says otherwise. The last part gives each statement that has hypotheses a
witness that meets them. -/

open Sys2Proof Sys2Proof.Machine

namespace Sys2Proof.Tests

-- One proof at a time: a hundred kernel evaluations at once would need as many thread stacks.
set_option Elab.async false

/-! ### Small states and what is read off a result -/

/-- A result's response and the calls of its trace. -/
def seen : Result → Option (Word × Word × Word × List Call)
  | .next t => some (t.status, t.res0, t.res1, t.trace)
  | _ => none

/-- A pin's record after an operation. -/
def pinAfter (p : PinId) : Result → Option PinRec
  | .next t => some (t.pin p)
  | _ => none

/-- A slot's record after an operation. -/
def slotAfter (v : SlotId) : Result → Option SlotRec
  | .next t => some (t.slot v)
  | _ => none

/-- The next operation's inputs from the environment. -/
def under (e : Env) (s : State) : State := { s with env := e }

/-- The state of V-C7 to V-C10: pin 8 plays 440 Hz on channel 0. -/
def tone (alarm : Bool) : State :=
  State.reset.setPin 8
    { bound := true, handle := 0, hwen := true, lastcd := 1110, alarmPend := alarm, alarmAt := 100 }

/-- Slot 0 after V-S1. -/
def rec0 : SlotRec :=
  { valid := true, pin := 9, freq := 28160, vol := 65536, scale := 65536, period := 4545 }

/-- The state after V-S1. -/
def idle0 : State := State.reset.setSlot 0 rec0

/-- Slot 0 of P2 while it plays the sine table on pin 9 and channel 1, at some index. -/
def sine (i : BitVec 8) : State :=
  (State.reset.setPin 9 { bound := true, handle := 1, hwen := true, lastcd := 256 }).setSlot 0
    { rec0 with wave := 2, period := 568, playing := true, index := i, tmrReg := true, tmrInterval := 568 }

/-- Slot 1 of P3 after its SPK_PLAY. -/
def rec1 : SlotRec :=
  { valid := true, pin := 10, wave := 1, freq := 112640, vol := 32768, scale := 16384, period := 568,
    playing := true, dlValid := true, dl := 1000, tmrReg := true, tmrInterval := 568 }

/-- Slot 1 of P3 with some record, its pin 10 on channel 2. -/
def saw (r : SlotRec) : State :=
  (State.reset.setPin 10 { bound := true, handle := 2, hwen := true, lastcd := 256 }).setSlot 1 r

/-- Set B of the example parameters. -/
def setB : Config := { Config.exampleA with sysclkHz := 12000000 }

/-! ### Well-formedness: one ill-formed operation for each check of R95 items 4 to 7 (V-X8 to V-X11, V-S13) -/

theorem test_wf_refuses_pin_of_start : (Instr.start 32 1 0 0).wf Config.exampleA = false := by decide
theorem test_wf_refuses_pin_of_retune : (Instr.retune 255 1 0).wf Config.exampleA = false := by decide
theorem test_wf_refuses_pin_of_chStop : (Instr.chStop 32).wf Config.exampleA = false := by decide
theorem test_wf_refuses_pin_of_evAlarm : (Instr.evAlarm 32).wf Config.exampleA = false := by decide
theorem test_wf_refuses_slot_of_spkInit : (Instr.spkInit 4 9 false 1 0).wf Config.exampleA = false := by decide
theorem test_wf_refuses_pin_of_spkInit : (Instr.spkInit 0 32 false 1 0).wf Config.exampleA = false := by decide
theorem test_wf_refuses_slot_of_spkSetFreq : (Instr.spkSetFreq 4 1).wf Config.exampleA = false := by decide
theorem test_wf_refuses_slot_of_spkSetVol : (Instr.spkSetVol 4 1).wf Config.exampleA = false := by decide
theorem test_wf_refuses_slot_of_spkSetWave : (Instr.spkSetWave 4 0).wf Config.exampleA = false := by decide
theorem test_wf_refuses_wave_of_spkSetWave : (Instr.spkSetWave 0 4).wf Config.exampleA = false := by decide
theorem test_wf_refuses_slot_of_spkPlay : (Instr.spkPlay 4 0).wf Config.exampleA = false := by decide
theorem test_wf_refuses_slot_of_spkStop : (Instr.spkStop 4).wf Config.exampleA = false := by decide
theorem test_wf_refuses_slot_of_getters :
    (Instr.spkGetFreq 4).wf Config.exampleA = false ∧ (Instr.spkGetVol 4).wf Config.exampleA = false ∧
      (Instr.spkIsPlaying 4).wf Config.exampleA = false := by decide
theorem test_wf_refuses_slot_of_evTick : (Instr.evTick 4).wf Config.exampleA = false := by decide
theorem test_wf_accepts_last_pin_slot_and_wave :
    (Instr.start 31 1 0 0).wf Config.exampleA = true ∧ (Instr.spkSetWave 3 3).wf Config.exampleA = true := by
  decide

/-! ### Decoding: a word of each operation, written out bit by bit from R81, R91, R92 and R94 -/

/-- `RSVD`, `TGT`, `OPC` in order; P4's last line. -/
theorem test_decode_encode :
    decode 0b0000000000000000_00000000_00000001#32 0x00037000 0x00008000 0 =
      .ok (.encode 0x00037000 0x00008000) := by decide
/-- P1. -/
theorem test_decode_start :
    decode 0b0000000000000000_00001000_00000010#32 0x0001B800 0x00008000 0x00000064 =
      .ok (.start 8 0x0001B800 0x00008000 100) := by decide
/-- P4. -/
theorem test_decode_retune :
    decode 0b0000000000000000_00001000_00000011#32 0x0001B800 0x00008000 0 =
      .ok (.retune 8 0x0001B800 0x00008000) := by decide
/-- P1. -/
theorem test_decode_chStop :
    decode 0b0000000000000000_00001000_00000100#32 0 0 0 = .ok (.chStop 8) := by decide
/-- P3's words with the affinity bit of V-S21. -/
theorem test_decode_spkInit :
    decode 0b0000000000000000_00000001_00010000#32 0b00000000000000000000000_1_00001010#32 0x0001B800 0x00008000 =
      .ok (.spkInit 1 10 true 0x0001B800 0x00008000) := by decide
/-- P3. -/
theorem test_decode_spkSetFreq :
    decode 0b0000000000000000_00000001_00010001#32 0x00037000 0 0 = .ok (.spkSetFreq 1 0x00037000) := by decide
theorem test_decode_spkSetVol :
    decode 0b0000000000000000_00000010_00010010#32 0xFFFFFFFF 0 0 = .ok (.spkSetVol 2 0xFFFFFFFF) := by decide
/-- P3. -/
theorem test_decode_spkSetWave :
    decode 0b0000000000000000_00000001_00010011#32 0b000000000000000000000000_00000001#32 0 0 =
      .ok (.spkSetWave 1 1) := by decide
/-- P3. -/
theorem test_decode_spkPlay :
    decode 0b0000000000000000_00000001_00010100#32 0x000003E8 0 0 = .ok (.spkPlay 1 1000) := by decide
/-- P2. -/
theorem test_decode_spkStop :
    decode 0b0000000000000000_00000011_00010101#32 0 0 0 = .ok (.spkStop 3) := by decide
theorem test_decode_spkGetFreq :
    decode 0b0000000000000000_00000011_00010110#32 0 0 0 = .ok (.spkGetFreq 3) := by decide
theorem test_decode_spkGetVol :
    decode 0b0000000000000000_00000011_00010111#32 0 0 0 = .ok (.spkGetVol 3) := by decide
/-- P3. -/
theorem test_decode_spkIsPlaying :
    decode 0b0000000000000000_00000001_00011000#32 0 0 0 = .ok (.spkIsPlaying 1) := by decide
/-- P3. -/
theorem test_decode_evTick :
    decode 0b0000000000000000_00000001_00100000#32 0 0 0 = .ok (.evTick 1) := by decide
/-- P1. -/
theorem test_decode_evAlarm :
    decode 0b0000000000000000_00001000_00100001#32 0 0 0 = .ok (.evAlarm 8) := by decide

/-- V-X1 to V-X4. -/
theorem test_decode_refuses_unknown_opcodes :
    decode 0x00000000 0 0 0 = .error .unknownOpcode ∧ decode 0x00000005 0 0 0 = .error .unknownOpcode ∧
      decode 0x00000019 0 0 0 = .error .unknownOpcode ∧ decode 0x000000FF 0 0 0 = .error .unknownOpcode := by
  decide
/-- V-X5 to V-X7. -/
theorem test_decode_refuses_reserved_command_bits :
    decode 0x00010004 0 0 0 = .error .reservedCommandBits ∧
      decode 0x80000820 0 0 0 = .error .reservedCommandBits ∧
      decode 0x00000101 0 0 0 = .error .encodeTarget := by decide
/-- V-S22, V-X12. -/
theorem test_decode_refuses_reserved_operand_bits :
    decode 0x00000010 0x00000209 0x00006E00 0x00010000 = .error .reservedInitBits ∧
      decode 0x00000013 0x00000100 0 0 = .error .reservedWaveBits := by decide
/-- P1, on the table's numbering: the command word in bits 31:0. -/
theorem test_decodeTableWord :
    decodeTableWord 32 0x00000804 = some (.chStop 8) ∧
      decodeTableWord 128 0x00000064_00008000_0001B800_00000802 =
        some (.start 8 0x0001B800 0x00008000 100) := by decide
/-- P1, P3. -/
theorem test_encode_words :
    Sys2Proof.encode (.start 8 0x0001B800 0x00008000 100) = [0x00000802, 0x0001B800, 0x00008000, 0x00000064] ∧
      Sys2Proof.encode (.spkInit 1 10 false 0x0001B800 0x00008000) =
        [0x00000110, 0x0000000A, 0x0001B800, 0x00008000] := by decide

/-! ### Assembly (R98, R99) -/

/-- P1: the line and its words. -/
theorem test_assemble_start :
    assemble "START 8, 440Hz, 0.5, 100".toList = some [0x00000802, 0x0001B800, 0x00008000, 0x00000064] := by
  decide +kernel
/-- X1: the pseudo-instruction of the same words. -/
theorem test_assemble_tone :
    assemble "TONE 8, 440Hz, 100, 0.5".toList = some [0x00000802, 0x0001B800, 0x00008000, 0x00000064] := by
  decide +kernel
/-- V-E19's and V-E12's frequencies; R98: an inexact sugar is refused, and ENCODE has no target. -/
theorem test_assemble_encode :
    assemble "ENCODE 27.5Hz, -1".toList = some [0x00000001, 7040, 0xFFFFFFFF] ∧
      assemble "ENCODE -1Hz, 0x7FFFFFFF".toList = some [0x00000001, 0xFFFFFF00, 0x7FFFFFFF] ∧
      assemble "ENCODE 0.001Hz, 0".toList = none := by decide +kernel

/-! ### One step of each instruction -/

/-- V-E1. -/
theorem test_encode_slowed_clock :
    seen (exec (.encode 112640 32768) State.reset) = some (0, 1110, 0x7FF47FF4, []) := by decide +kernel
/-- V-E3. -/
theorem test_encode_tie_rounds_up :
    seen (exec (.encode 0x0F424000 32768) State.reset) = some (0, 256, 0x003B003A, []) := by decide +kernel
/-- P1. -/
theorem test_start_claims :
    seen (exec (.start 8 112640 32768 100) (under { claim := some 0 } State.reset)) =
      some (0, 0, 0, [.claimChannel 8, .setEnabled 0 false, .setClockDivisor 0 1110, .clearBuffer 0,
        .pushWord 0 0x7FF47FF4, .setEnabled 0 true, .scheduleOnce 100 8]) := by decide +kernel
/-- V-C8. -/
theorem test_start_cancels_alarm :
    seen (exec (.start 8 112640 32768 0) (tone true)) =
      some (0, 0, 0, [.cancelOnce 8, .clearBuffer 0, .pushWord 0 0x7FF47FF4]) := by decide +kernel
/-- V-C9. -/
theorem test_retune_keeps_alarm :
    pinAfter 8 (exec (.retune 8 112640 32768) (tone true)) = some ((tone true).pin 8) := by decide +kernel
/-- P4: the divisor changes to 555. -/
theorem test_retune_writes_changed_divisor :
    seen (exec (.retune 8 0x00037000 0x00008000) (tone false)) =
      some (0, 0, 0, [.setClockDivisor 0 555, .clearBuffer 0, .pushWord 0 0x7FF47FF4]) := by decide +kernel
/-- V-C10. -/
theorem test_chStop_releases :
    seen (exec (.chStop 8) (tone true)) =
      some (0, 0, 0, [.cancelOnce 8, .setEnabled 0 false, .releaseChannel 0, .setPinMode 8 .output,
        .writePin 8 false]) := by decide +kernel
/-- V-C2. -/
theorem test_chStop_unbound : seen (exec (.chStop 8) State.reset) = some (8, 0, 0, []) := by decide +kernel
/-- P1. -/
theorem test_evAlarm_stops :
    seen (exec (.evAlarm 8) (tone true)) =
      some (0, 0, 0, [.setEnabled 0 false, .releaseChannel 0, .setPinMode 8 .output, .writePin 8 false]) := by
  decide +kernel
/-- V-C6. -/
theorem test_evAlarm_without_alarm :
    seen (exec (.evAlarm 8) State.reset) = some (1, 0, 0, []) := by decide +kernel
/-- V-S1. -/
theorem test_spkInit_constructs :
    slotAfter 0 (exec (.spkInit 0 9 false 28160 65536) State.reset) = some rec0 := by decide +kernel
/-- V-S3. -/
theorem test_spkInit_refuses_zero_frequency :
    seen (exec (.spkInit 0 9 false 0 65536) State.reset) = some (0x0F, 0, 0, []) := by decide +kernel
/-- V-S7. -/
theorem test_spkSetFreq_stopped :
    slotAfter 0 (exec (.spkSetFreq 0 56320) idle0) = some { rec0 with freq := 56320, period := 2272 } := by
  decide +kernel
/-- P3 at t = 1200: on a playing slot the period becomes dirty. -/
theorem test_spkSetFreq_playing :
    slotAfter 1 (exec (.spkSetFreq 1 0x00037000) (saw rec1)) =
      some { rec1 with freq := 225280, period := 284, dirty := true } := by decide +kernel
/-- V-S9. -/
theorem test_spkSetVol_clamps :
    seen (exec (.spkSetVol 0 0x00020000) idle0) = some (0, 0, 0, []) ∧
      slotAfter 0 (exec (.spkSetVol 0 0x00020000) idle0) = some rec0 := by decide +kernel
/-- V-S11. -/
theorem test_spkSetVol_small :
    slotAfter 0 (exec (.spkSetVol 0 327) idle0) = some { rec0 with vol := 327, scale := 0 } := by decide +kernel
/-- V-S12. -/
theorem test_spkSetWave_stopped :
    slotAfter 0 (exec (.spkSetWave 0 2) idle0) = some { rec0 with wave := 2, period := 568 } := by
  decide +kernel
/-- P3 at t = 1200. -/
theorem test_spkSetWave_playing :
    slotAfter 1 (exec (.spkSetWave 1 0) (saw rec1)) = some { rec1 with pend := 0, pendValid := true } := by
  decide +kernel
/-- P2. -/
theorem test_spkPlay_starts :
    seen (exec (.spkPlay 0 0)
        (under { claim := some 1 } (State.reset.setSlot 0 { rec0 with wave := 2, period := 568 }))) =
      some (0, 0, 0, [.claimChannel 9, .setEnabled 1 false, .setClockDivisor 1 256, .clearBuffer 1,
        .pushWord 1 0x00000075, .setEnabled 1 true, .scheduleRepeating 568 0]) := by decide +kernel
/-- V-S16. -/
theorem test_spkPlay_moves_deadline :
    slotAfter 1 (exec (.spkPlay 1 5) (under { now := 3 } (saw rec1))) = some { rec1 with dl := 8 } := by
  decide +kernel
/-- P2. -/
theorem test_spkStop_stops :
    seen (exec (.spkStop 0) (sine 1)) =
      some (0, 0, 0, [.cancelRepeating 0, .setEnabled 1 false, .releaseChannel 1, .setPinMode 9 .output,
        .writePin 9 false]) := by decide +kernel
/-- V-S14. -/
theorem test_spkStop_stopped : seen (exec (.spkStop 0) idle0) = some (1, 0, 0, []) := by decide +kernel
/-- V-S15. -/
theorem test_spkGetFreq : seen (exec (.spkGetFreq 0) idle0) = some (0, 0x00006E00, 0, []) := by decide +kernel
/-- V-S10. -/
theorem test_spkGetVol : seen (exec (.spkGetVol 0) idle0) = some (0, 0x00010000, 0, []) := by decide +kernel
/-- V-S20, on the state of P3. -/
theorem test_spkIsPlaying : seen (exec (.spkIsPlaying 1) (saw rec1)) = some (0, 1, 0, []) := by decide +kernel
/-- V-P4. -/
theorem test_evTick_commits_and_rearms :
    seen (exec (.evTick 1) (saw { rec1 with freq := 225280, period := 284, pendValid := true })) =
      some (0, 0, 16384, [.rearm 568 1, .clearBuffer 2, .pushWord 2 0x001C0059]) := by decide +kernel
/-- V-P2. -/
theorem test_evTick_wraps :
    seen (exec (.evTick 0) (sine 15)) =
        some (0, 0, 20303, [.clearBuffer 1, .pushWord 1 0x00230052]) ∧
      (slotAfter 0 (exec (.evTick 0) (sine 15))).map SlotRec.index = some 0 := by decide +kernel

/-! ### The step -/

/-- P1 through the port: the words placed by `withFetchWord` run, and the operand latches hold them. -/
theorem test_step_runs_placed_word :
    seen (step (State.reset.withFetchWord 96 0x00008000_0001B800_00000001)) =
        some (0, 1110, 0x7FF47FF4, []) ∧
      (match step (State.reset.withFetchWord 96 0x00008000_0001B800_00000001) with
        | .next t => (t.a0, t.a1, t.a2, t.inbox)
        | _ => (0, 0, 0, [])) = (0x0001B800, 0x00008000, 0, []) := by decide +kernel
/-- V-X5. -/
theorem test_step_answers_illegal :
    seen (step (State.reset.withFetchWord 32 0x00010004)) = some (0x0F, 0, 0, []) := by decide +kernel

/-! ### Witnesses: states and operands that meet the hypotheses of the statements -/

/-- A result that is a next state. -/
theorem exists_next {r : Result} (h : (seen r).isSome = true) : ∃ t, r = .next t := by
  cases r with
  | next t => exact ⟨t, rfl⟩
  | fault _ => cases h
  | refused _ => cases h

/-- A state with one transaction on its port. -/
def port (s : State) (t : Transaction) : State := { s with inbox := [t] }

theorem witness_DecodedWordsAreTheEncoding :
    decode 0x00000114 1000 0 0 = .ok (.spkPlay 1 1000) := by decide

theorem witness_StepRunsDecodedInstruction :
    let t : Transaction := { cmd := 0x00000804 }
    configLegal (port (tone true) t).cfg = true ∧ (port (tone true) t).inbox = t :: [] ∧
      decode t.cmd t.a0 t.a1 t.a2 = .ok (.chStop 8) := by decide +kernel

/-- A transaction of each condition of R95, at the first value that meets it; the state is that of P3. -/
def illegalTransactions : List Transaction :=
  [{ cmd := 0x00000005 }, { cmd := 0x00010804 }, { cmd := 0x00000101 },
    { cmd := 0x00002002 }, { cmd := 0x00002003 }, { cmd := 0x00002004 }, { cmd := 0x00002021 },
    { cmd := 0x00000411 }, { cmd := 0x00000418 }, { cmd := 0x00000420 },
    { cmd := 0x00000010, a0 := 512, a1 := 1 }, { cmd := 0x00000010, a0 := 32, a1 := 1 },
    { cmd := 0x00000113, a0 := 256 }, { cmd := 0x00000113, a0 := 4 },
    { cmd := 0x00000011 }, { cmd := 0x00000018 }, { cmd := 0x00000020 },
    { cmd := 0x00000110, a1 := 1 }, { cmd := 0x00000010, a1 := 0 }]

theorem witness_IllegalTransactionOnlyAnswers :
    ∀ t ∈ illegalTransactions,
      configLegal (port (saw rec1) t).cfg = true ∧ (port (saw rec1) t).inbox = t :: [] ∧
        IllegalTransaction (port (saw rec1) t) t := by
  unfold IllegalTransaction
  decide +kernel

/-- Both sides of the equivalence occur, and every step of it answers. -/
theorem witness_IllegalStatusExactlyWhenIllegal :
    (∀ t ∈ illegalTransactions, (seen (step (port (saw rec1) t))).map (·.1) = some 0x0000000F) ∧
      (seen (step (port (saw rec1) { cmd := 0x00000118 }))).map (·.1) = some 0 := by decide +kernel

theorem witness_IllFormedOperationIsIllegal :
    ∀ i ∈ [Instr.start 32 1 0 0, .spkInit 4 9 false 1 0, .spkInit 0 32 false 1 0, .spkSetWave 0 4, .evTick 4],
      i.wf State.reset.cfg = false := by decide

theorem witness_IdlePortChangesNothing :
    configLegal State.reset.cfg = true ∧ State.reset.inbox = [] := by decide +kernel

/-- One illegal configuration for each disjunct, at the first value past the range. -/
theorem witness_IllegalConfigurationIsRefused :
    let c := Config.exampleA
    { c with sysclkHz := 0 }.sysclkHz = 0 ∧ 2 ^ 32 ≤ { c with sysclkHz := 2 ^ 32 }.sysclkHz ∧
      { c with nPins := 0 }.nPins = 0 ∧ 256 < { c with nPins := 257 }.nPins ∧
      { c with nSlots := 0 }.nSlots = 0 ∧ 256 < { c with nSlots := 257 }.nSlots ∧
      c.waves.length ≤ { c with defaultWave := 4 }.defaultWave ∧
      256 < { c with waves := List.replicate 257 .noise }.waves.length ∧
      { c with freqFB := 9 }.freqFB ≠ 8 ∧ { c with dutyFB := 15 }.dutyFB ≠ 16 ∧
      { c with clkdivFB := 0 }.clkdivFB ≠ 8 ∧
      (∀ k ≤ 8, [1, 2, 3].length ≠ 2 ^ k) ∧ 2 ^ 31 ≤ { c with carrierHz := 8388608 }.carrierHz * 2 ^ c.freqFB := by
  decide +kernel

/-- An operation that answers, for the statements about every `exec` that does. -/
theorem witness_OperationsOnlyAppendCalls : ∃ t, exec (.chStop 8) (tone true) = .next t :=
  exists_next (by decide +kernel)

/-- The premises of `EncodeCommandAnswersItsSteps` on its numbers, before its clauses. -/
abbrev EncodePremises (c : Config) (fq duty : Word) (f D REQ CD TOTAL : Nat) : Prop :=
  0 < f ∧ fq.toInt = f ∧
  (duty.toInt < 0 ∧ D = 0 ∨ 0 ≤ duty.toInt ∧ duty.toInt ≤ 65536 ∧ duty.toInt = D ∨
    65536 < duty.toInt ∧ D = 65536) ∧
  2 * f * REQ ≤ 2 * (c.sysclkHz * 256) + f ∧ 2 * (c.sysclkHz * 256) + f < 2 * f * (REQ + 1) ∧
  (REQ ≤ c.limit ∧ CD = 256 ∨
    c.limit < REQ ∧ REQ * 256 ≤ CD * c.limit ∧ CD * c.limit < REQ * 256 + c.limit) ∧
  2 * (CD * f) * TOTAL ≤ 2 * (c.sysclkHz * 65536) + CD * f ∧
  2 * (c.sysclkHz * 65536) + CD * f < 2 * (CD * f) * (TOTAL + 1)

/-- V-E10 (too low), V-E21 (too high), V-E22 (phase too short). -/
theorem witness_EncodeCommandAnswersItsSteps_rejections :
    Config.exampleA.FormatsLegal ∧ setB.FormatsLegal ∧
    EncodePremises Config.exampleA 7 32768 7 32768 4571428571 17855781 65541 ∧ 16777216 < 17855781 ∧
      EncodePremises setB 682666752 32768 682666752 32768 4 256 4 ∧ 4 ≤ setB.overhead ∧
      EncodePremises setB 512000000 32768 512000000 32768 6 256 6 ∧
      setB.overhead < 6 ∧ 6 < setB.overhead + 2 * setB.minPhase := by decide +kernel

/-- V-E1. -/
theorem witness_EncodeCommandAnswersItsSteps_ok :
    Config.exampleA.FormatsLegal ∧
    EncodePremises Config.exampleA 112640 32768 112640 32768 284091 1110 65520 ∧
      65516 + Config.exampleA.overhead = 65520 ∧ 2 * 65536 * 32758 ≤ 2 * (65516 * 32768) + 65536 ∧
      2 * (65516 * 32768) + 65536 < 2 * 65536 * (32758 + 1) ∧
      32758 = max Config.exampleA.minPhase (min 32758 (65516 - Config.exampleA.minPhase)) := by decide +kernel

/-- V-E6 and V-E7 at the ends of the duty's range; V-E23 with both phases at `MIN_PHASE`. -/
theorem witness_EncodeCommandAnswersItsSteps_corners :
    Config.exampleA.FormatsLegal ∧ setB.FormatsLegal ∧
    EncodePremises Config.exampleA 0x0F424000 0xFFFFFFFF 256000000 0 125 256 125 ∧
      EncodePremises Config.exampleA 0x0F424000 0x7FFFFFFF 256000000 65536 125 256 125 ∧
      EncodePremises setB 409600000 32768 409600000 32768 8 256 8 ∧
      setB.overhead + 2 * setB.minPhase ≤ 8 := by decide +kernel

theorem witness_DefensiveCheckNeverRejects :
    let c := Config.exampleA
    let cd := clockDivisor c (requiredCycles c 256)
    let total := totalCycles c 256 cd
    cd ≤ maxDivisor c ∧ c.overhead < total ∧ 2 * c.minPhase ≤ total - c.overhead ∧ total = c.limit := by
  decide +kernel

/-- The premise of the statements about an Encode that accepts, at both ends of the duty. -/
theorem witness_EncodedPhasesMakeUpThePeriod :
    Config.exampleA.FormatsLegal ∧ (encodeFD Config.exampleA 112640 0).st = .ok ∧
      (encodeFD Config.exampleA 112640 65536).st = .ok := by
  decide +kernel

theorem witness_HighPhaseMonotoneInDuty :
    Config.exampleA.FormatsLegal ∧ (encodeFD Config.exampleA 0x0F424000 0).st = .ok ∧ (0 : Int) ≤ 65536 := by
  decide +kernel

theorem witness_EncodedPeriodWithinHalfACycle :
    Config.exampleA.FormatsLegal ∧ (encodeFD Config.exampleA 8 32768).st = .ok := by
  decide +kernel

/-- V-E13 and V-E14, the two sides of `REQ = LIMIT`. -/
theorem witness_ClockDivisorRange :
    Config.exampleA.FormatsLegal ∧
    (encodeFD Config.exampleA 488241 32768).st = .ok ∧
      requiredCycles Config.exampleA 488241 = Config.exampleA.limit ∧
      requiredCycles Config.exampleA 488240 = Config.exampleA.limit + 1 := by decide +kernel

/-- V-E9 and V-E10, the two sides of the too-low boundary; V-E21 and V-E22, of the too-high one. -/
theorem witness_RejectionBoundaries :
    Config.exampleA.FormatsLegal ∧ setB.FormatsLegal ∧
    (encodeFD Config.exampleA 8 32768).st = .ok ∧ (encodeFD Config.exampleA 7 32768).st = .rejFreqTooLow ∧
      1 ≤ Config.exampleA.overhead + Config.exampleA.minPhase ∧ Config.exampleA.sysclkHz < 2 ^ 32 ∧
      (encodeFD setB 682666752 32768).st = .rejFreqTooHigh ∧
      requiredCycles setB 512000000 ≤ setB.limit ∧ setB.overhead < requiredCycles setB 512000000 := by
  decide +kernel

theorem witness_DutyCornersKeepMinPhase :
    Config.exampleA.FormatsLegal ∧
    (encodeFD Config.exampleA 0x0F424000 0).st = .ok ∧ (encodeFD Config.exampleA 0x0F424000 65536).st = .ok ∧
      2 * Config.exampleA.minPhase ≤ 4 := by decide +kernel

theorem witness_StartOfNonpositiveFrequencyIsStop :
    (0 : Word).toInt ≤ 0 ∧ (0x80000000 : Word).toInt ≤ 0 := by decide

/-- The last pin, the last handle, and a state in which another pin holds a channel. -/
theorem witness_StartClaimsAndPlays :
    let s := under { claim := some 7 } (tone true)
    (31 : PinId).toNat < s.cfg.nPins ∧ 0 < (112640 : Word).toInt ∧
      (encodeFD s.cfg (112640 : Word).toInt (32768 : Word).toInt).st = .ok ∧ (s.pin 31).bound = false ∧
      s.env.claim = some 7 ∧ 7 < s.cfg.nChannels ∧ s.boundCount < s.cfg.nChannels ∧
      (∀ q, (s.pin q).bound = true → (s.pin q).handle ≠ 7) := by
  refine ⟨by decide, by decide, by decide +kernel, by decide +kernel, rfl, by decide, by decide +kernel, ?_⟩
  intro q h
  simp only [under, tone, State.pin] at h ⊢
  rw [← State.pin] at h ⊢
  rw [State.setPin_pin] at h ⊢
  split <;> simp_all [State.reset]

theorem witness_StartRetunesABoundPin :
    (8 : PinId).toNat < (tone true).cfg.nPins ∧ 0 < (112640 : Word).toInt ∧
      (encodeFD (tone true).cfg (112640 : Word).toInt (32768 : Word).toInt).st = .ok ∧
      ((tone true).pin 8).bound = true := by decide +kernel

/-- A refused claim, and a pool of one channel that another pin holds. -/
theorem witness_FailedClaimLeavesPinUnbound :
    (State.reset.pin 31).bound = false ∧ State.reset.env.claim = none ∧
      (let s := { tone true with cfg := { Config.exampleA with nChannels := 1 } }
       (31 : PinId).toNat < s.cfg.nPins ∧ 0 < (112640 : Word).toInt ∧
        (encodeFD s.cfg (112640 : Word).toInt (32768 : Word).toInt).st = .ok ∧
        (s.pin 31).bound = false ∧ s.cfg.nChannels ≤ s.boundCount) := by decide +kernel

/-- V-C7. -/
theorem witness_RejectedEncodingChangesNothing :
    (8 : PinId).toNat < (tone false).cfg.nPins ∧
      (encodeFD (tone false).cfg (7 : Word).toInt (32768 : Word).toInt).st ≠ .ok ∧ 0 < (7 : Word).toInt ∧
      ((tone false).pin 8).bound = true := by decide +kernel

theorem witness_RetuneAppliesTheWord :
    (8 : PinId).toNat < (tone true).cfg.nPins ∧ ((tone true).pin 8).bound = true ∧
      (encodeFD (tone true).cfg (225280 : Word).toInt (32768 : Word).toInt).st = .ok := by decide +kernel

theorem witness_UnboundPinIsReported :
    (31 : PinId).toNat < State.reset.cfg.nPins ∧ (State.reset.pin 31).bound = false := by decide +kernel

theorem witness_StopReleasesTheChannel :
    (8 : PinId).toNat < (tone true).cfg.nPins ∧ ((tone true).pin 8).bound = true := by decide +kernel

/-- On a bound pin, and on the unbound one that R47 excludes. -/
theorem witness_AlarmStopsTheTone :
    (8 : PinId).toNat < (tone true).cfg.nPins ∧ ((tone true).pin 8).alarmPend = true ∧
      ((tone true).pin 8).bound = true ∧
      (let s := State.reset.setPin 8 { alarmPend := true }
       (s.pin 8).alarmPend = true ∧ (s.pin 8).bound = false) := by decide +kernel

theorem witness_OkLeavesTheToneApplied :
    (seen (exec (.start 8 112640 32768 0) (tone true))).map (·.1) = some Status.ok.word ∧
      (seen (exec (.retune 8 225280 32768) (tone true))).map (·.1) = some Status.ok.word := by decide +kernel

/-- `tone` with slot 0 as V-S1 leaves it. -/
def stage (alarm : Bool) : State := (tone alarm).setSlot 0 rec0

/-- The invariants hold of a state with one bound pin and one constructed slot, at the greatest volume. -/
theorem stage_meets_invariants (alarm : Bool) :
    RecordsConsistent (stage alarm) ∧ RecordsInRange (stage alarm) := by
  have hp : ∀ q, (stage alarm).pin q =
      if q = 8 then { bound := true, handle := 0, hwen := true, lastcd := 1110, alarmPend := alarm, alarmAt := 100 }
      else {} := fun q => by
    unfold stage tone
    rw [State.setSlot_pin, State.setPin_pin]
    simp [State.reset]
  have hs : ∀ u, (stage alarm).slot u = if u = 0 then rec0 else {} := fun u => by
    unfold stage tone
    rw [State.setSlot_slot]
    simp [State.reset]
  have hc : (stage alarm).cfg = Config.exampleA := rfl
  refine ⟨⟨fun p => ?_, fun v => ?_⟩, fun p => ?_, fun v => ?_, fun p q => ?_⟩
  · rw [hp]; split <;> simp [PinConsistent]
  · rw [hs, hc]; split
    · exact fun _ => by decide +kernel
    · intro h; cases h
  · rw [hp]; split
    · intro _; exact ⟨show 0 < 8 by decide, show 256 ≤ 1110 by decide, show 1110 ≤ 16777216 by decide⟩
    · intro h; cases h
  · rw [hs, hc]; split
    · exact fun _ => by decide +kernel
    · intro h; cases h
  · rw [hp, hp]; split <;> split <;> simp_all

theorem witness_DivisorIsWrittenOnlyOnChange :
    RecordsConsistent (stage false) ∧ RecordsInRange (stage false) ∧ ((stage false).pin 8).bound = true ∧
      (pinAfter 8 (exec (.retune 8 225280 32768) (stage false))).map PinRec.bound = some true ∧
      (seen (exec (.retune 8 225280 32768) (stage false))).map (fun r =>
        decide (Call.setClockDivisor ((stage false).pin 8).handle 555 ∈ r.2.2.2)) = some true :=
  ⟨(stage_meets_invariants false).1, (stage_meets_invariants false).2, by decide +kernel, by decide +kernel,
    by decide +kernel⟩

theorem witness_InitConstructsTheSlot :
    (3 : SlotId).toNat < State.reset.cfg.nSlots ∧ (31 : PinId).toNat < State.reset.cfg.nPins ∧
      (State.reset.slot 3).valid = false ∧ 0 < (1 : Word).toInt ∧ configLegal State.reset.cfg = true := by
  decide +kernel

theorem witness_SetFreqStoresTheFrequency :
    (saw rec1).cfg.FormatsLegal ∧
    (1 : SlotId).toNat < (saw rec1).cfg.nSlots ∧ ((saw rec1).slot 1).valid = true ∧
      (225280 : Word) ≠ ((saw rec1).slot 1).freq ∧ 0 < (225280 : Word).toInt := by decide +kernel

theorem witness_SetVolStoresTheClampedVolume :
    idle0.cfg.FormatsLegal ∧
    (0 : SlotId).toNat < idle0.cfg.nSlots ∧ (idle0.slot 0).valid = true ∧
      (0x00020000 : Word).toInt ≠ (idle0.slot 0).vol.toNat := by decide +kernel

/-- A stopped slot and a playing one, with the last index of the catalogue. -/
theorem witness_SetWaveSwapsOrPends :
    idle0.cfg.FormatsLegal ∧ (saw rec1).cfg.FormatsLegal ∧
    (idle0.slot 0).valid = true ∧ (idle0.slot 0).playing = false ∧ ((saw rec1).slot 1).valid = true ∧
      ((saw rec1).slot 1).playing = true ∧ (1 : SlotId).toNat < (saw rec1).cfg.nSlots ∧
      (3 : BitVec 8).toNat < (saw rec1).cfg.waves.length := by decide +kernel

theorem witness_PlayOnAPlayingSlotMovesTheDeadline :
    (1 : SlotId).toNat < (saw rec1).cfg.nSlots ∧ ((saw rec1).slot 1).valid = true ∧
      ((saw rec1).slot 1).playing = true := by decide +kernel

theorem witness_PlayStartsTheCarrier :
    (0 : SlotId).toNat < idle0.cfg.nSlots ∧ (idle0.slot 0).valid = true ∧ (idle0.slot 0).playing = false ∧
      (idle0.slot 0).pin.toNat < idle0.cfg.nPins ∧ idle0.cfg.carrierHz * 2 ^ idle0.cfg.freqFB < 2 ^ 31 ∧
      (0x0F424000 : Word).toNat = idle0.cfg.carrierHz * 2 ^ idle0.cfg.freqFB := by decide +kernel

theorem witness_SpeakerStopStopsTheChannel :
    (0 : SlotId).toNat < (sine 1).cfg.nSlots ∧ ((sine 1).slot 0).valid = true ∧
      ((sine 1).slot 0).playing = true ∧ ((sine 1).slot 0).pin.toNat < (sine 1).cfg.nPins := by decide +kernel

theorem witness_GettersReadTheSlot :
    (0 : SlotId).toNat < idle0.cfg.nSlots ∧ (idle0.slot 0).valid = true := by decide +kernel

theorem witness_NoopCasesChangeNothing :
    (31 : PinId).toNat < idle0.cfg.nPins ∧ (idle0.pin 31).alarmPend = false ∧
      (0 : SlotId).toNat < idle0.cfg.nSlots ∧ (idle0.slot 0).valid = true ∧ (idle0.slot 0).playing = false ∧
      (28160 : Word) = (idle0.slot 0).freq ∧ (0 : Word).toInt ≤ 0 ∧
      (65536 : Word).toInt = (idle0.slot 0).vol.toNat := by decide +kernel

/-- The two sides of a quotient of 1. -/
theorem witness_StepPeriodIsTheTruncatedQuotient :
    Config.exampleA.FormatsLegal ∧
    0 < 1 ∧ (0 : Int) < 256000000 ∧ ((1 : Nat) : Int) * 256000000 ≤ 256000000 ∧
      256000000 < ((1 : Nat) : Int) * 256000001 := by decide

theorem witness_VolumeLawProperties :
    Config.exampleA.FormatsLegal ∧ 655 ≤ 655 ∧ volLaw Config.exampleA 656 ≠ 0 := by decide +kernel

theorem witness_AffinityHasNoEffect :
    ∃ t, exec (.spkInit 0 9 true 28160 65536) State.reset = .next t := exists_next (by decide +kernel)

theorem witness_ConstructedSlotsStayConstructed :
    (idle0.slot 0).valid = true ∧ ∃ t, exec (.spkSetFreq 0 1) idle0 = .next t :=
  ⟨by decide +kernel, exists_next (by decide +kernel)⟩

/-- V-P1 (a table), V-P4 (a due swap) and V-P8 (noise). -/
theorem witness_TickPublishesOneStep :
    (let r := (sine 1).slot 0
     (0 : SlotId).toNat < (sine 1).cfg.nSlots ∧ r.valid = true ∧ r.playing = true ∧
      ¬(r.dlValid = true ∧ r.dl ≤ (sine 1).env.now) ∧ r.pin.toNat < (sine 1).cfg.nPins ∧
      (sine 1).cfg.carrierHz * 2 ^ (sine 1).cfg.freqFB < 2 ^ 31 ∧
      (0x0F424000 : Word).toNat = (sine 1).cfg.carrierHz * 2 ^ (sine 1).cfg.freqFB ∧
      (sine 1).cfg.waves[r.wave.toNat]? =
        some (.table [128, 176, 218, 245, 255, 245, 218, 176, 128, 79, 37, 10, 0, 10, 37, 79]) ∧
      ([128, 176, 218, 245, 255, 245, 218, 176, 128, 79, 37, 10, 0, 10, 37, 79] : List Byte)[
        r.index.toNat &&& (16 - 1)]? = some 176 ∧
      2 * 255 * 45233 ≤ 2 * (176 * r.scale.toNat) + 255 ∧
      2 * (176 * r.scale.toNat) + 255 < 2 * 255 * (45233 + 1)) ∧
    (let r := (saw { rec1 with pendValid := true }).slot 1
     r.index = 0 ∧ r.pendValid = true ∧
      Config.exampleA.waves[r.pend.toNat]? = some (.table [255, 0]) ∧
      ([255, 0] : List Byte)[r.index.toNat &&& (2 - 1)]? = some 255) ∧
    Config.exampleA.waves[3]? = some .noise := by decide +kernel

/-- The deadline itself, the millisecond before it, and no deadline. -/
theorem witness_TickAtTheDeadlineIsStop :
    (1 : SlotId).toNat < (saw rec1).cfg.nSlots ∧ ((saw rec1).slot 1).valid = true ∧
      ((saw rec1).slot 1).playing = true ∧ ((saw rec1).slot 1).dlValid = true ∧
      ((saw rec1).slot 1).dl.toNat ≤ (under { now := 1000 } (saw rec1)).env.now.toNat ∧
      (under { now := 999 } (saw rec1)).env.now.toNat < ((saw rec1).slot 1).dl.toNat ∧
      ((sine 1).slot 0).dlValid = false := by decide +kernel

/-- V-P4: the swap is committed and the waveform of the playing slot changes. -/
theorem witness_WaveChangesOnlyAtTheWrap :
    let s := saw { rec1 with pendValid := true }
    (s.slot 1).valid = true ∧ (s.slot 1).pendValid = true ∧ (s.slot 1).playing = true ∧
      (slotAfter 1 (exec (.evTick 1) s)).map (fun r => (r.pendValid, decide (r.wave ≠ (s.slot 1).wave))) =
        some (false, true) := by decide +kernel

/-- V-P3: the tick calls `rearm` and changes the interval. -/
theorem witness_RearmOnlyFromTheTick :
    let s := saw { rec1 with freq := 225280, period := 284, dirty := true, index := 2 }
    (s.slot 1).valid = true ∧ (s.slot 1).playing = true ∧
      (seen (exec (.evTick 1) s)).map (fun r => decide (Call.rearm 284 1 ∈ r.2.2.2)) = some true ∧
      (slotAfter 1 (exec (.evTick 1) s)).map (fun r => decide (r.tmrInterval ≠ (s.slot 1).tmrInterval)) =
        some true := by decide +kernel

/-- The last index of a table. -/
theorem witness_IndexAdvancesModuloTheSize :
    configLegal (sine 15).cfg = true ∧ (0 : SlotId).toNat < (sine 15).cfg.nSlots ∧
      ((sine 15).slot 0).valid = true ∧ ((sine 15).slot 0).playing = true ∧
      ¬(((sine 15).slot 0).dlValid = true ∧ ((sine 15).slot 0).dl ≤ (sine 15).env.now) := by decide +kernel

/-- P3's swap: requested at index 2 of a table of 4, with two ticks to the wrap. -/
theorem witness_SwapIsGlitchFree :
    let s := saw { rec1 with index := 2, pendValid := true }
    let r := s.slot 1
    let es : List Env := [{ now := 1 }, { now := 2 }]
    configLegal s.cfg = true ∧ (1 : SlotId).toNat < s.cfg.nSlots ∧ r.valid = true ∧ r.playing = true ∧
      r.pendValid = true ∧ 0 < r.index.toNat ∧ r.index.toNat < waveSize s.cfg r.wave ∧
      es.length = waveSize s.cfg r.wave - r.index.toNat ∧
      ([] : List Env).length < waveSize s.cfg r.wave - r.index.toNat ∧
      (∀ x ∈ ({ now := 3 } : Env) :: es, ¬(r.dlValid = true ∧ r.dl ≤ x.now)) := by decide +kernel

/-- V-P1. -/
theorem witness_CarrierStepWritesNoDivisor :
    let s := sine 1
    let r := s.slot 0
    (0 : SlotId).toNat < s.cfg.nSlots ∧ r.valid = true ∧ r.playing = true ∧
      ¬(r.dlValid = true ∧ r.dl ≤ s.env.now) ∧ r.dirty = false ∧ ¬(r.index = 0 ∧ r.pendValid = true) ∧
      (s.pin r.pin).bound = true ∧ (s.pin r.pin).hwen = true ∧
      (encodeFD s.cfg (carrierFq s.cfg) 0).st = .ok ∧
      (s.pin r.pin).lastcd = (encodeFD s.cfg (carrierFq s.cfg) 0).cd := by decide +kernel

theorem witness_ScaledSampleStaysWithinTheScale : 255 ≤ 255 ∧ 65536 ≤ 65536 := by decide

theorem witness_StepKeepsRecordsConsistent :
    RecordsConsistent (port (stage true) { cmd := 0x00000821 }) ∧
      ∃ t, step (port (stage true) { cmd := 0x00000821 }) = .next t :=
  ⟨(stage_meets_invariants true).1, exists_next (by decide +kernel)⟩

theorem witness_StepKeepsRecordsInRange :
    RecordsInRange (port (stage true) { cmd := 0x00000821 }) ∧
      ∃ t, step (port (stage true) { cmd := 0x00000821 }) = .next t :=
  ⟨(stage_meets_invariants true).2, exists_next (by decide +kernel)⟩

end Sys2Proof.Tests
end

section
/-! PROOF. The pseudo-instructions (R99): a line's mnemonic selects one opcode or one pseudo-instruction, and a
pseudo-instruction assembles to what the line of its expansion assembles to. -/

namespace Sys2Proof.Machine

/-- No two opcodes share a mnemonic (R94). -/
theorem find_opcodeMnemonic (o : Opcode) :
    (Opcode.all.find? fun o' => (opcodeMnemonic o').toList == (opcodeMnemonic o).toList) = some o := by
  cases o <;> decide +kernel

/-- No pseudo-instruction has an opcode's mnemonic. -/
theorem find_opcode_of_pseudo (q : Pseudo) :
    (Opcode.all.find? fun o => (opcodeMnemonic o).toList == q.mnemonic.toList) = none := by
  cases q <;> decide +kernel

/-- No two pseudo-instructions share a name. -/
theorem find_pseudoMnemonic (q : Pseudo) :
    ([Pseudo.tone, .notone, .updtone, .speaker, .play].find? fun q' =>
      q'.mnemonic.toList == q.mnemonic.toList) = some q := by
  cases q <;> decide +kernel

theorem assembleLine_opcodeMnemonic (o : Opcode) (args : List Literal) :
    assembleLine (opcodeMnemonic o).toList args = assembleOpcode o args := by
  simp only [assembleLine, find_opcodeMnemonic]

theorem assembleLine_pseudoMnemonic (q : Pseudo) (args : List Literal) :
    assembleLine q.mnemonic.toList args = (q.expand args).bind fun r => assembleOpcode r.1 r.2 := by
  simp only [assembleLine, find_opcode_of_pseudo, find_pseudoMnemonic]

/-- What each row of R99's table rests on: only the expansion itself is left to check. -/
theorem assembleLine_pseudo_eq_expansion {q : Pseudo} {o : Opcode} {args ls : List Literal}
    (h : q.expand args = some (o, ls)) :
    assembleLine q.mnemonic.toList args = assembleLine (opcodeMnemonic o).toList ls := by
  rw [assembleLine_pseudoMnemonic, assembleLine_opcodeMnemonic, h, Option.bind_some]

/-- Settles O14, by the expansion of each of the five pseudo-instructions. -/
theorem pseudoInstructionsExpand : Obligations.PseudoInstructionsExpand := by
  unfold Obligations.PseudoInstructionsExpand
  refine ⟨fun pin fq dur duty => ?tone, fun pin => ?notone, fun pin fq duty => ?updtone,
    fun slot pin core fq vol => ?speaker, fun slot => ?play⟩
  case tone => exact assembleLine_pseudo_eq_expansion (q := .tone) (o := .start) rfl
  case notone => exact assembleLine_pseudo_eq_expansion (q := .notone) (o := .chStop) rfl
  case updtone => exact assembleLine_pseudo_eq_expansion (q := .updtone) (o := .retune) rfl
  case speaker => exact assembleLine_pseudo_eq_expansion (q := .speaker) (o := .spkInit) rfl
  case play => exact assembleLine_pseudo_eq_expansion (q := .play) (o := .spkPlay) rfl

end Sys2Proof.Machine
end

section
/-! PROOF. The Frequency/Duty Encoder (R121 to R138): the divisor and the cycle count as functions of the
frequency, the status without the duty, and what a returned word holds. -/

namespace Sys2Proof.Machine

/-! ### Rounding -/

/-- A ratio with a common factor rounds as the reduced ratio does: why `TOTAL = REQ` at a divisor of 1
(R136). -/
theorem rdiv_mul_left (a : Nat) {b k : Nat} (hk : 0 < k) : rdiv (k * a) (k * b) = rdiv a b := by
  have num : 2 * (k * a) + k * b = k * (2 * a + b) := by ring
  have den : 2 * (k * b) = k * (2 * b) := by ring
  rw [rdiv, num, den, Nat.mul_div_mul_left _ _ hk, rdiv]

theorem rdiv_zero_left {b : Nat} (hb : 0 < b) : rdiv 0 b = 0 :=
  (rdiv_eq_iff hb).2 (by omega)

theorem rdiv_mul_self (a : Nat) {b : Nat} (hb : 0 < b) : rdiv (a * b) b = a :=
  (rdiv_eq_iff hb).2 ⟨by linarith, by linarith⟩

theorem rdiv_antitone_right (a : Nat) {b b' : Nat} (hb : 0 < b) (h : b ≤ b') : rdiv a b' ≤ rdiv a b := by
  have hle := (rdiv_bounds a (hb.trans_le h)).1
  have hlt := (rdiv_bounds a hb).2
  by_contra hgt
  have hq : rdiv a b + 1 ≤ rdiv a b' := by omega
  nlinarith [Nat.mul_le_mul h hq]

/-! ### The clock divisor (R124) -/

theorem clockDivisor_of_le {c : Config} {req : Nat} (h : req ≤ c.limit) :
    clockDivisor c req = 2 ^ c.clkdivFB := if_neg (by omega)

theorem clockDivisor_of_lt {c : Config} {req : Nat} (h : c.limit < req) :
    clockDivisor c req = cdiv (req * 2 ^ c.clkdivFB) c.limit := if_pos h

/-- A divisor that slows the clock is above 1 (R135). -/
theorem lt_cdiv_of_limit_lt {c : Config} {req k : Nat} (hk : 0 < k) (h : c.limit < req) :
    k < cdiv (req * k) c.limit := by
  by_contra hle
  have := (cdiv_le_iff (limit_pos c)).1 (not_lt.1 hle)
  exact absurd (Nat.le_of_mul_le_mul_right this hk) (by omega)

theorem clockDivisor_ge (c : Config) (req : Nat) : 2 ^ c.clkdivFB ≤ clockDivisor c req := by
  rcases le_or_gt req c.limit with h | h
  · rw [clockDivisor_of_le h]
  · rw [clockDivisor_of_lt h]; exact (lt_cdiv_of_limit_lt (by positivity) h).le

theorem clockDivisor_pos (c : Config) (req : Nat) : 0 < clockDivisor c req :=
  lt_of_lt_of_le (by positivity) (clockDivisor_ge c req)

theorem clockDivisor_eq_one_iff (c : Config) (req : Nat) :
    clockDivisor c req = 2 ^ c.clkdivFB ↔ req ≤ c.limit := by
  refine ⟨fun h => ?_, clockDivisor_of_le⟩
  by_contra hlt
  rw [clockDivisor_of_lt (not_le.1 hlt)] at h
  exact absurd h (lt_cdiv_of_limit_lt (by positivity) (not_le.1 hlt)).ne'

/-- Rounding the divisor up leaves the rejection boundary where the rational divisor puts it (R137). -/
theorem clockDivisor_le_maxDivisor_iff (c : Config) (req : Nat) :
    clockDivisor c req ≤ maxDivisor c ↔ req ≤ 65536 * c.limit := by
  have hk : 0 < 2 ^ c.clkdivFB := by positivity
  rcases le_or_gt req c.limit with h | h
  · rw [clockDivisor_of_le h, maxDivisor]
    exact ⟨fun _ => by omega, fun _ => by omega⟩
  · have comm : c.limit * maxDivisor c = 65536 * c.limit * 2 ^ c.clkdivFB := by rw [maxDivisor]; ring
    rw [clockDivisor_of_lt h, cdiv_le_iff (limit_pos c), comm]
    exact Nat.mul_le_mul_right_iff hk

/-- Rounding the divisor up: the slowed clock counts no more than `LIMIT` cycles in `REQ` (R131). -/
theorem req_mul_le_clockDivisor_mul_limit (c : Config) (req : Nat) :
    req * 2 ^ c.clkdivFB ≤ clockDivisor c req * c.limit := by
  rcases le_or_gt req c.limit with h | h
  · rw [clockDivisor_of_le h, Nat.mul_comm]; exact Nat.mul_le_mul_left _ h
  · rw [clockDivisor_of_lt h, Nat.mul_comm _ c.limit]
    exact (cdiv_le_iff (limit_pos c)).1 le_rfl

/-! ### The cycle counts (R123, R125) -/

/-- From 1 Hz up a period has at most `SYSCLK_HZ` cycles: the too-low boundary lies below 1 Hz (R137). -/
theorem requiredCycles_le_of_one_hz_le {c : Config} {f : Nat} (hf : 2 ^ c.freqFB ≤ f) :
    requiredCycles c f ≤ c.sysclkHz := by
  have hone : 0 < 2 ^ c.freqFB := by positivity
  calc requiredCycles c f ≤ rdiv (c.sysclkHz * 2 ^ c.freqFB) (2 ^ c.freqFB) :=
        rdiv_antitone_right _ hone hf
    _ = c.sysclkHz := rdiv_mul_self _ hone

/-- The numerator of step 4 is that of step 2 with the divisor's fraction bits as a factor. -/
theorem totalCycles_numerator (c : Config) :
    c.sysclkHz * 2 ^ (c.freqFB + c.clkdivFB) = 2 ^ c.clkdivFB * (c.sysclkHz * 2 ^ c.freqFB) := by
  rw [pow_add]; ring

/-- An unslowed clock counts `REQ` cycles (R136). -/
theorem totalCycles_of_req_le {c : Config} {f : Nat} (h : requiredCycles c f ≤ c.limit) :
    totalCycles c f (clockDivisor c (requiredCycles c f)) = requiredCycles c f := by
  rw [clockDivisor_of_le h, totalCycles, totalCycles_numerator, rdiv_mul_left _ (by positivity), requiredCycles]

/-- `TOTAL ≤ LIMIT` (R131): `TOTAL` rounds a ratio that is below `LIMIT + 1/2`. -/
theorem totalCycles_le_limit (c : Config) {f : Nat} (hf : 0 < f) :
    totalCycles c f (clockDivisor c (requiredCycles c f)) ≤ c.limit := by
  set req := requiredCycles c f with hreq
  set cd := clockDivisor c req with hcd
  set N := c.sysclkHz * 2 ^ c.freqFB with hN
  set k := 2 ^ c.clkdivFB with hk
  have kpos : 0 < k := by positivity
  have num : c.sysclkHz * 2 ^ (c.freqFB + c.clkdivFB) = k * N := totalCycles_numerator c
  have req_lt : 2 * N + f < 2 * f * (req + 1) := (rdiv_bounds N hf).2
  have total_le := (rdiv_bounds (k * N) (Nat.mul_pos (clockDivisor_pos c req) hf)).1
  have slowed_req : req * k ≤ cd * c.limit := req_mul_le_clockDivisor_mul_limit c req
  have one_le : k ≤ cd := clockDivisor_ge c req
  have slowed : k * (2 * req + 1) ≤ cd * (2 * c.limit + 1) := by linarith
  have ratio_lt : 2 * (k * N) < cd * f * (2 * c.limit + 1) := calc
    2 * (k * N) = k * (2 * N) := by ring
    _ < k * (f * (2 * req + 1)) := Nat.mul_lt_mul_of_pos_left (by linarith) kpos
    _ = f * (k * (2 * req + 1)) := by ring
    _ ≤ f * (cd * (2 * c.limit + 1)) := Nat.mul_le_mul_left f slowed
    _ = cd * f * (2 * c.limit + 1) := by ring
  rw [totalCycles, num]
  by_contra hgt
  have above : c.limit + 1 ≤ rdiv (k * N) (cd * f) := by omega
  linarith [Nat.mul_le_mul_left (2 * (cd * f)) above]

/-! ### The phase split (R127, R128) -/

theorem unit_pos (c : Config) : 0 < c.unit := by unfold Config.unit; positivity

theorem highPhase_mono {c : Config} {var d d' : Nat} (hvar : 2 * c.minPhase ≤ var) (h : d ≤ d') :
    highPhase c var d ≤ highPhase c var d' := by
  have hx : rdiv (var * d) c.unit ≤ rdiv (var * d') c.unit := rdiv_mono (Nat.mul_le_mul_left var h)
  unfold highPhase clamp
  split_ifs <;> omega

theorem highPhase_zero (c : Config) (var : Nat) : highPhase c var 0 = c.minPhase := by
  rw [highPhase, Nat.mul_zero, rdiv_zero_left (unit_pos c), clamp]
  split_ifs <;> omega

theorem highPhase_unit {c : Config} {var : Nat} (hvar : 2 * c.minPhase ≤ var) :
    highPhase c var c.unit = var - c.minPhase := by
  rw [highPhase, rdiv_mul_self var (unit_pos c), clamp]
  split_ifs <;> omega

theorem clampUnit_of_nonpos {c : Config} {x : Int} (h : x ≤ 0) : clampUnit c x = 0 := by
  unfold clampUnit clamp; split_ifs <;> omega

theorem clampUnit_of_unit_le {c : Config} {x : Int} (h : (c.unit : Int) ≤ x) : clampUnit c x = c.unit := by
  unfold clampUnit clamp; split_ifs <;> omega

theorem packPhases_toNat {ph pl : Nat} (hph : ph ≤ 65535) (hpl : pl ≤ 65535) :
    (packPhases ph pl).toNat = ph * 65536 + pl := by
  rw [packPhases, BitVec.toNat_ofNat]; omega

/-- A count within the 16-bit window is packed: the defensive check of R128 passes (R131). -/
theorem packSplit_of_var_le {c : Config} {var : Nat} (cd d : Nat) (hvar : 2 * c.minPhase ≤ var)
    (hle : var ≤ 0xFFFF + c.minPhase) :
    packSplit c cd var d =
      { st := .ok, cd := BitVec.ofNat 25 cd,
        w := packPhases (highPhase c var d - c.minPhase) (var - highPhase c var d - c.minPhase) } := by
  obtain ⟨hlo, hhi⟩ := highPhase_bounds d hvar
  rcases packSplit_cases c cd var d with ⟨hover, -⟩ | ⟨-, -, heq⟩
  · omega
  · exact heq

/-! ### The status and the returned word -/

/-- `CD` as a function of the frequency alone (R123, R124). -/
def encoderDivisor (c : Config) (fq : Int) : Nat := clockDivisor c (requiredCycles c fq.toNat)

/-- `TOTAL` as a function of the frequency alone (R125). -/
def encoderTotal (c : Config) (fq : Int) : Nat := totalCycles c fq.toNat (encoderDivisor c fq)

/-- The status by the first rejecting step (R130), among the steps that can reject. -/
def encoderStatus (c : Config) (fq : Int) : Status :=
  if fq ≤ 0 then .rejFreqNonpos
  else if maxDivisor c < encoderDivisor c fq then .rejFreqTooLow
  else if encoderTotal c fq ≤ c.overhead then .rejFreqTooHigh
  else if encoderTotal c fq - c.overhead < 2 * c.minPhase then .rejPhaseTooShort
  else .ok

theorem encoderTotal_le_limit (c : Config) {fq : Int} (h : 0 < fq) : encoderTotal c fq ≤ c.limit :=
  totalCycles_le_limit c (by omega)

theorem encoderTotal_sub_overhead_le (c : Config) {fq : Int} (h : 0 < fq) :
    encoderTotal c fq - c.overhead ≤ 0xFFFF + c.minPhase := by
  have := encoderTotal_le_limit c h
  rw [Config.limit] at this; omega

theorem encoderStatus_eq_ok_iff (c : Config) (fq : Int) :
    encoderStatus c fq = .ok ↔ 0 < fq ∧ encoderDivisor c fq ≤ maxDivisor c ∧
      c.overhead < encoderTotal c fq ∧ 2 * c.minPhase ≤ encoderTotal c fq - c.overhead := by
  unfold encoderStatus; split_ifs <;> simp <;> omega

theorem encoderStatus_eq_tooLow_iff (c : Config) (fq : Int) :
    encoderStatus c fq = .rejFreqTooLow ↔ 0 < fq ∧ maxDivisor c < encoderDivisor c fq := by
  unfold encoderStatus; split_ifs <;> simp <;> omega

theorem encoderStatus_eq_tooHigh_iff (c : Config) (fq : Int) :
    encoderStatus c fq = .rejFreqTooHigh ↔ 0 < fq ∧ encoderDivisor c fq ≤ maxDivisor c ∧
      encoderTotal c fq ≤ c.overhead := by
  unfold encoderStatus; split_ifs <;> simp <;> omega

theorem encoderStatus_eq_tooShort_iff (c : Config) (fq : Int) :
    encoderStatus c fq = .rejPhaseTooShort ↔ 0 < fq ∧ encoderDivisor c fq ≤ maxDivisor c ∧
      c.overhead < encoderTotal c fq ∧ encoderTotal c fq - c.overhead < 2 * c.minPhase := by
  unfold encoderStatus; split_ifs <;> simp <;> omega

theorem encoderStatus_ne_packOverflow (c : Config) (fq : Int) : encoderStatus c fq ≠ .rejPackOverflow := by
  unfold encoderStatus; split_ifs <;> simp

/-- The status decides whether the frequency is rejected or the split of R127 and R128 is reached. -/
theorem encodeFD_eq (c : Config) (fq duty : Int) :
    encodeFD c fq duty =
      if encoderStatus c fq = .ok then
        packSplit c (encoderDivisor c fq) (encoderTotal c fq - c.overhead) (clampUnit c duty)
      else .reject (encoderStatus c fq) := by
  rcases encodeFD_cases c fq duty with ⟨h, heq⟩ | ⟨hfq, hcd, heq⟩ | ⟨hfq, hcd, htotal, heq⟩ |
    ⟨hfq, hcd, htotal, hvar, heq⟩ | ⟨hfq, hcd, htotal, hvar, heq⟩
  · have hst : encoderStatus c fq = .rejFreqNonpos := if_pos h
    rw [heq, hst]; rfl
  · rw [heq, (encoderStatus_eq_tooLow_iff c fq).2 ⟨hfq, hcd⟩]; rfl
  · rw [heq, (encoderStatus_eq_tooHigh_iff c fq).2 ⟨hfq, hcd, htotal⟩]; rfl
  · rw [heq, (encoderStatus_eq_tooShort_iff c fq).2 ⟨hfq, hcd, htotal, hvar⟩]; rfl
  · rw [heq, if_pos ((encoderStatus_eq_ok_iff c fq).2 ⟨hfq, hcd, htotal, hvar⟩)]; rfl

/-- The triple of an accepted frequency (R128). -/
theorem encodeFD_of_ok {c : Config} {fq : Int} (duty : Int) (h : encoderStatus c fq = .ok) :
    let var := encoderTotal c fq - c.overhead
    let high := highPhase c var (clampUnit c duty)
    encodeFD c fq duty =
      { st := .ok, cd := BitVec.ofNat 25 (encoderDivisor c fq),
        w := packPhases (high - c.minPhase) (var - high - c.minPhase) } := by
  obtain ⟨hfq, -, -, hvar⟩ := (encoderStatus_eq_ok_iff c fq).1 h
  rw [encodeFD_eq, if_pos h]
  exact packSplit_of_var_le _ _ hvar (encoderTotal_sub_overhead_le c hfq)

/-- No rejecting step reads the duty (R133), and step 7 never rejects (R131). -/
theorem encodeFD_st (c : Config) (fq duty : Int) : (encodeFD c fq duty).st = encoderStatus c fq := by
  by_cases h : encoderStatus c fq = .ok
  · rw [encodeFD_of_ok duty h, h]
  · rw [encodeFD_eq, if_neg h, Encoded.reject_st]

/-- What Encode returns with `OK`, its two phases read off the packed word. -/
structure Accepts (c : Config) (fq duty : Int) : Prop where
  fq_pos : 0 < fq
  overhead_lt : c.overhead < encoderTotal c fq
  two_minPhase_le : 2 * c.minPhase ≤ encoderTotal c fq - c.overhead
  cd_le : encoderDivisor c fq ≤ 16777216
  cd_eq : (encodeFD c fq duty).cd.toNat = encoderDivisor c fq
  high_eq : (encodeFD c fq duty).w.toNat / 65536 + c.minPhase =
    highPhase c (encoderTotal c fq - c.overhead) (clampUnit c duty)
  low_eq : (encodeFD c fq duty).w.toNat % 65536 + c.minPhase = encoderTotal c fq - c.overhead -
    highPhase c (encoderTotal c fq - c.overhead) (clampUnit c duty)

theorem accepts_of_st_eq_ok {c : Config} {fq duty : Int} (hc : c.FormatsLegal)
    (hst : (encodeFD c fq duty).st = .ok) : Accepts c fq duty := by
  have hok : encoderStatus c fq = .ok := encodeFD_st c fq duty ▸ hst
  obtain ⟨hfq, hcd, htotal, hvar⟩ := (encoderStatus_eq_ok_iff c fq).1 hok
  have hcd : encoderDivisor c fq ≤ 16777216 := by rwa [maxDivisor, hc.2.2] at hcd
  have hwindow := encoderTotal_sub_overhead_le c hfq
  obtain ⟨hlo, hhi⟩ := highPhase_bounds (clampUnit c duty) hvar
  have hw := packPhases_toNat
    (ph := highPhase c (encoderTotal c fq - c.overhead) (clampUnit c duty) - c.minPhase)
    (pl := encoderTotal c fq - c.overhead -
      highPhase c (encoderTotal c fq - c.overhead) (clampUnit c duty) - c.minPhase)
    (by omega) (by omega)
  refine ⟨hfq, htotal, hvar, hcd, ?cd, ?high, ?low⟩ <;> rw [encodeFD_of_ok duty hok]
  case cd => rw [BitVec.toNat_ofNat]; omega
  case high => rw [hw]; omega
  case low => rw [hw]; omega

/-- The phases and `OVERHEAD` make up `TOTAL` (R132). -/
theorem Accepts.total_eq {c : Config} {fq duty : Int} (h : Accepts c fq duty) :
    (encodeFD c fq duty).w.toNat / 65536 + (encodeFD c fq duty).w.toNat % 65536 + 2 * c.minPhase +
      c.overhead = encoderTotal c fq := by
  have hbounds := highPhase_bounds (clampUnit c duty) h.two_minPhase_le
  have := h.high_eq
  have := h.low_eq
  have := h.overhead_lt
  omega

/-- `TOTAL` in terms of the returned divisor. -/
theorem Accepts.totalCycles_cd_eq {c : Config} {fq duty : Int} (h : Accepts c fq duty) :
    totalCycles c fq.toNat (encodeFD c fq duty).cd.toNat = encoderTotal c fq := by
  rw [h.cd_eq, encoderTotal]

/-! ### The statements -/

/-- Settles O16, by `TOTAL ≤ LIMIT`. -/
theorem defensiveCheckNeverRejects : Obligations.DefensiveCheckNeverRejects := by
  unfold Obligations.DefensiveCheckNeverRejects
  intro c fq duty cd total var high
  refine ⟨by rw [encodeFD_st]; exact encoderStatus_ne_packOverflow c fq, fun hfq _ _ hvar => ?_⟩
  have htotal : total ≤ c.limit := encoderTotal_le_limit c hfq
  have hwindow : var ≤ 0xFFFF + c.minPhase := encoderTotal_sub_overhead_le c hfq
  obtain ⟨hlo, hhi⟩ : c.minPhase ≤ high ∧ high ≤ var - c.minPhase := highPhase_bounds _ hvar
  exact ⟨htotal, hwindow, by omega, by omega, by omega⟩

/-- Settles O17, by the bounds of the clamp. -/
theorem encodedPhasesMakeUpThePeriod : Obligations.EncodedPhasesMakeUpThePeriod := by
  unfold Obligations.EncodedPhasesMakeUpThePeriod
  intro c fq duty hc e total high low hst
  have h := accepts_of_st_eq_ok hc hst
  have htotal : total = encoderTotal c fq := h.totalCycles_cd_eq
  have hhigh : e.w.toNat / 65536 + c.minPhase = high := by rw [h.high_eq, ← htotal]
  have hlow : e.w.toNat % 65536 + c.minPhase = low := by rw [h.low_eq, ← htotal]
  have hsum : e.w.toNat / 65536 + e.w.toNat % 65536 + 2 * c.minPhase + c.overhead = total :=
    h.total_eq.trans htotal.symm
  exact ⟨by omega, by omega, by omega, hhigh, hlow⟩

/-- Settles O18: the duty enters only through the clamp and the rounded product, which are monotone. -/
theorem highPhaseMonotoneInDuty : Obligations.HighPhaseMonotoneInDuty := by
  unfold Obligations.HighPhaseMonotoneInDuty
  intro c fq d1 d2 hc e1 e2 high low
  have hst : e1.st = e2.st := by rw [encodeFD_st, encodeFD_st]
  refine ⟨hst, fun hok => ?_⟩
  have h1 := accepts_of_st_eq_ok hc hok
  have h2 := accepts_of_st_eq_ok hc (hst ▸ hok)
  have total1 : high e1 + low e1 + c.overhead = encoderTotal c fq := by rw [← h1.total_eq]; ring
  have total2 : high e2 + low e2 + c.overhead = encoderTotal c fq := by rw [← h2.total_eq]; ring
  have hsum : high e1 + low e1 = high e2 + low e2 := by omega
  refine ⟨hsum, by rw [total1, h1.totalCycles_cd_eq], fun hd => ?_⟩
  have hhigh : high e1 ≤ high e2 := calc
    high e1 = highPhase c (encoderTotal c fq - c.overhead) (clampUnit c d1) := h1.high_eq
    _ ≤ highPhase c (encoderTotal c fq - c.overhead) (clampUnit c d2) :=
      highPhase_mono h1.two_minPhase_le (clampUnit_mono c hd)
    _ = high e2 := h2.high_eq.symm
  exact ⟨hhigh, by rw [hsum]; gcongr⟩

/-- Settles O19, by the two bounds that the rounding of `TOTAL` means. -/
theorem encodedPeriodWithinHalfACycle : Obligations.EncodedPeriodWithinHalfACycle := by
  unfold Obligations.EncodedPeriodWithinHalfACycle
  intro c fq duty hc e total hst
  have h := accepts_of_st_eq_ok hc hst
  obtain ⟨f, rfl⟩ := Int.eq_ofNat_of_zero_le h.fq_pos.le
  have htotal : total = (encoderTotal c f : Int) := congrArg Nat.cast h.total_eq
  have hcd : e.cd.toNat = encoderDivisor c f := h.cd_eq
  have hpos : 0 < encoderDivisor c f * f :=
    Nat.mul_pos (clockDivisor_pos c _) (by have := h.fq_pos; omega)
  have hrdiv : encoderTotal c f = rdiv (c.sysclkHz * 2 ^ 16) (encoderDivisor c f * f) := by
    rw [encoderTotal, totalCycles, hc.1, hc.2.2]; rfl
  obtain ⟨hle, hlt⟩ := rdiv_bounds (c.sysclkHz * 2 ^ 16) hpos
  rw [← hrdiv] at hle hlt
  zify at hle hlt
  rw [htotal, hcd, abs_le]
  constructor <;> linarith

/-- Settles O20: a slowed clock's divisor rounds up from above 1. -/
theorem clockDivisorRange : Obligations.ClockDivisorRange := by
  unfold Obligations.ClockDivisorRange
  intro c fq duty hc e req
  have one : 2 ^ c.clkdivFB = 256 := by rw [hc.2.2]; rfl
  refine ⟨fun hst => ?_, lt_cdiv_of_limit_lt (by norm_num)⟩
  have h := accepts_of_st_eq_ok hc hst
  have hcd : e.cd.toNat = clockDivisor c req := h.cd_eq
  rw [hcd, ← one]
  exact ⟨clockDivisor_ge c req, h.cd_le, clockDivisor_eq_one_iff c req⟩

/-- Settles O21, by the first rejecting step and the exact boundary of the rounded-up divisor. -/
theorem rejectionBoundaries : Obligations.RejectionBoundaries := by
  unfold Obligations.RejectionBoundaries
  intro c fq duty hc st req total
  have hst : st = encoderStatus c fq := encodeFD_st c fq duty
  have hmax : encoderDivisor c fq ≤ maxDivisor c ↔ req ≤ 65536 * c.limit :=
    clockDivisor_le_maxDivisor_iff c req
  have tooLow : st = .rejFreqTooLow ↔ 0 < fq ∧ 65536 * c.limit < req := by
    rw [hst, encoderStatus_eq_tooLow_iff, lt_iff_lt_of_le_iff_le hmax]
  have tooHigh : st = .rejFreqTooHigh ↔ 0 < fq ∧ req ≤ 65536 * c.limit ∧ total ≤ c.overhead := by
    rw [hst, encoderStatus_eq_tooHigh_iff, hmax]; rfl
  have limit_large : 1 ≤ c.overhead + c.minPhase → 2 ^ 32 ≤ 65536 * c.limit := by
    rw [Config.limit]; omega
  refine ⟨tooLow, ?rational, tooHigh, fun _ hreq => ?unslowed, limit_large, fun hone hclk hlow => ?oneHz⟩
  case rational =>
    have limit_pos : (0 : ℚ) < c.limit := by exact_mod_cast limit_pos c
    rw [lt_div_iff₀ limit_pos]
    exact_mod_cast Iff.rfl
  case unslowed =>
    have htotal : total = req := totalCycles_of_req_le hreq
    exact ⟨htotal, by rw [htotal]⟩
  case oneHz =>
    by_contra hge
    have hreq : req ≤ c.sysclkHz := requiredCycles_le_of_one_hz_le (by rw [hc.1]; omega)
    have := limit_large hone
    have := (tooLow.1 hlow).2
    omega

/-- Settles O22, by the high phase at the two ends of the clamped duty. -/
theorem dutyCornersKeepMinPhase : Obligations.DutyCornersKeepMinPhase := by
  unfold Obligations.DutyCornersKeepMinPhase
  intro c fq duty hc e
  have hunit := unit_of_formatsLegal hc
  refine ⟨fun hst hd => ?zero, fun hst hd => ?one, fun var hvar => ⟨?_, highPhase_zero c var, ?_, ?_⟩⟩
  case zero =>
    have h := accepts_of_st_eq_ok hc hst
    have hhigh : e.w.toNat / 65536 + c.minPhase = _ := h.high_eq
    rw [clampUnit_of_nonpos hd, highPhase_zero] at hhigh
    omega
  case one =>
    have h := accepts_of_st_eq_ok hc hst
    have hvar := h.two_minPhase_le
    have hlow : e.w.toNat % 65536 + c.minPhase = _ := h.low_eq
    rw [clampUnit_of_unit_le (by rw [hunit]; exact hd), highPhase_unit hvar] at hlow
    omega
  · exact rdiv_zero_left (by norm_num)
  · exact rdiv_mul_self var (by norm_num)
  · rw [← hunit]; exact highPhase_unit hvar

end Sys2Proof.Machine
end

section
/-! PROOF. The Channel Output Stage (R151): START with a frequency of 0 or below performs CH_STOP inline. -/

namespace Sys2Proof.Machine

theorem exec_start (p : PinId) (fq duty dur : Word) (s : State) :
    exec (.start p fq duty dur) s = execStart p fq duty dur s := rfl

theorem exec_chStop (p : PinId) (s : State) : exec (.chStop p) s = execChStop p s := rfl

/-- The inline CH_STOP of R151, for every duty and duration. -/
theorem startOp_of_nonpos (p : PinId) {fq : Int} (h : fq ≤ 0) (duty : Int) (dur : Word) (s : State) :
    startOp p fq duty dur s = chStopOp p s := if_pos h

/-- Settles O23: both operations check the same pin, and START's effect is the inline CH_STOP. -/
theorem startOfNonpositiveFrequencyIsStop : Obligations.StartOfNonpositiveFrequencyIsStop := by
  unfold Obligations.StartOfNonpositiveFrequencyIsStop
  intro s p fq duty dur hfq
  have heffect : startOp p (sint32 fq) (sint32 duty) dur s = chStopOp p s :=
    startOp_of_nonpos p hfq (sint32 duty) dur s
  rw [exec_start, exec_chStop, execStart, execChStop, heffect]

end Sys2Proof.Machine
end

section
/-! PROOF. The Speaker slots: SPK_PLAY on a playing slot (R192), the volume law (R193), and that no operation
reads the core affinity (R194): erasing it commutes with every shared operation, and so with every operation
but SPK_INIT, which writes it. -/

namespace Sys2Proof.Machine

/-! ### SPK_PLAY on a playing slot -/

theorem exec_spkPlay (v : SlotId) (dur : Word) (s : State) :
    exec (.spkPlay v dur) s = execSpkPlay v dur s := rfl

/-- The one effect of SPK_PLAY on a playing slot: the deadline is set anew, or dropped (R186). -/
theorem execSpkPlay_of_playing {v : SlotId} {s : State} (dur : Word) (hs : v.toNat < s.cfg.nSlots)
    (hv : (s.slot v).valid = true) (hp : (s.slot v).playing = true) :
    execSpkPlay v dur s =
      .next ((s.setSlot v
        (if 0 < uint32 dur then (s.slot v).withDeadline s.env.now dur
          else { s.slot v with dlValid := false })).respond .ok 0 0) := by
  rw [execSpkPlay, checkSlot_of_valid hs hv]
  exact if_pos hp

/-- A duration word is 0 or counts at least one millisecond (R89). -/
theorem uint32_pos_iff (w : Word) : 0 < uint32 w ↔ w ≠ 0 := by
  rw [uint32, Nat.pos_iff_ne_zero, ne_eq, ne_eq, BitVec.toNat_eq]; rfl

/-- Settles O38: the operation writes the slot's record and the response, and the record it writes differs in
the deadline only. -/
theorem playOnAPlayingSlotMovesTheDeadline : Obligations.PlayOnAPlayingSlotMovesTheDeadline := by
  unfold Obligations.PlayOnAPlayingSlotMovesTheDeadline
  intro s v dur hs hv hp
  refine ⟨_, (exec_spkPlay v dur s).trans (execSpkPlay_of_playing dur hs hv hp), ⟨rfl, rfl, rfl⟩, .refl s,
    fun _ => rfl, fun u hu => ?others, rfl, rfl, fun hdur => ?dropped, fun hdur => ?moved⟩
  case others => rw [State.respond_slot, State.setSlot_slot_ne s hu]
  case dropped =>
    have hzero : ¬0 < uint32 dur := by rw [uint32_pos_iff]; exact not_not.2 hdur
    rw [State.respond_slot, State.setSlot_slot_self, if_neg hzero]
  case moved =>
    rw [State.respond_slot, State.setSlot_slot_self, if_pos ((uint32_pos_iff dur).2 hdur)]; rfl

/-! ### The volume law -/

/-- Below one hundredth of the full volume the speaker is silent (R182). -/
theorem volLaw_of_le {c : Config} (h : c.FormatsLegal) {v : Nat} (hv : v ≤ 655) : volLaw c v = 0 :=
  if_pos (by rw [unit_of_formatsLegal h]; omega)

/-- From one hundredth up the duty scale is the square (R182). -/
theorem volLaw_of_ge {c : Config} (h : c.FormatsLegal) {v : Nat} (hv : 656 ≤ v) :
    volLaw c v = rdiv (v * v) 65536 := by
  have hunit := unit_of_formatsLegal h
  rw [volLaw, hunit, if_neg (by omega)]

theorem volLaw_mono {c : Config} (h : c.FormatsLegal) {v w : Nat} (hvw : v ≤ w) :
    volLaw c v ≤ volLaw c w := by
  rcases Nat.lt_or_ge v 656 with hv | hv
  · rw [volLaw_of_le h (by omega)]; exact Nat.zero_le _
  · rw [volLaw_of_ge h hv, volLaw_of_ge h (hv.trans hvw)]
    exact rdiv_mono (Nat.mul_le_mul hvw hvw)

/-- Settles O44: the corners are values of the square, and the bounds follow from them by monotony. -/
theorem volumeLawProperties : Obligations.VolumeLawProperties := by
  unfold Obligations.VolumeLawProperties
  intro c h
  have maximum : volLaw c 65536 = 65536 := by
    rw [volLaw_of_ge h (by omega)]; exact rdiv_mul_self 65536 (by omega)
  have least : volLaw c 656 = 7 := volLaw_of_ge h le_rfl
  refine ⟨maximum, fun v hv => (volLaw_mono h hv).trans_eq maximum, fun v => volLaw_of_le h,
    fun v w => volLaw_mono h, least, fun v hne => ?_⟩
  have hv : 656 ≤ v := by
    by_contra hlt
    exact hne (volLaw_of_le h (by omega))
  exact least.symm.trans_le (volLaw_mono h hv)

/-! ### Erasing the core affinity -/

@[simp] theorem SlotRec.eraseAff_eraseAff (r : SlotRec) : r.eraseAff.eraseAff = r.eraseAff := rfl

@[simp] theorem State.eraseAff_eraseAff (s : State) : s.eraseAff.eraseAff = s.eraseAff := by
  simp [State.eraseAff, Function.comp_def]

@[simp] theorem State.eraseAff_slot (s : State) (v : SlotId) : s.eraseAff.slot v = (s.slot v).eraseAff := by
  simp [State.eraseAff, State.slot]

@[simp] theorem State.eraseAff_setSlot (s : State) (v : SlotId) (r : SlotRec) :
    (s.setSlot v r).eraseAff = s.eraseAff.setSlot v r.eraseAff := by
  simp [State.eraseAff, State.setSlot, Vector.map_set]

@[simp] theorem State.eraseAff_cfg (s : State) : s.eraseAff.cfg = s.cfg := rfl
@[simp] theorem State.eraseAff_env (s : State) : s.eraseAff.env = s.env := rfl
@[simp] theorem State.eraseAff_pin (s : State) (p : PinId) : s.eraseAff.pin p = s.pin p := rfl
@[simp] theorem State.eraseAff_claimAnswer (s : State) : s.eraseAff.claimAnswer = s.claimAnswer := rfl

@[simp] theorem State.eraseAff_emit (s : State) (calls : List Call) :
    (s.emit calls).eraseAff = s.eraseAff.emit calls := rfl

@[simp] theorem State.eraseAff_setPin (s : State) (p : PinId) (r : PinRec) :
    (s.setPin p r).eraseAff = s.eraseAff.setPin p r := rfl

@[simp] theorem State.eraseAff_drawFree (s : State) : s.drawFree.eraseAff = s.eraseAff.drawFree := rfl
@[simp] theorem State.eraseAff_freeCount (s : State) : s.eraseAff.freeCount = s.freeCount := rfl

@[simp] theorem State.eraseAff_respond (s : State) (st : Status) (x y : Word) :
    (s.respond st x y).eraseAff = s.eraseAff.respond st x y := rfl

@[simp] theorem SlotRec.eraseAff_valid (r : SlotRec) : r.eraseAff.valid = r.valid := rfl
@[simp] theorem SlotRec.eraseAff_pin (r : SlotRec) : r.eraseAff.pin = r.pin := rfl
@[simp] theorem SlotRec.eraseAff_freq (r : SlotRec) : r.eraseAff.freq = r.freq := rfl
@[simp] theorem SlotRec.eraseAff_vol (r : SlotRec) : r.eraseAff.vol = r.vol := rfl
@[simp] theorem SlotRec.eraseAff_playing (r : SlotRec) : r.eraseAff.playing = r.playing := rfl
@[simp] theorem SlotRec.eraseAff_dirty (r : SlotRec) : r.eraseAff.dirty = r.dirty := rfl
@[simp] theorem SlotRec.eraseAff_swapDue (r : SlotRec) : r.eraseAff.swapDue = r.swapDue := rfl

@[simp] theorem SlotRec.eraseAff_deadlinePassed (r : SlotRec) (now : Time) :
    r.eraseAff.deadlinePassed now = r.deadlinePassed now := rfl

@[simp] theorem SlotRec.eraseAff_period (r : SlotRec) : r.eraseAff.period = r.period := rfl

/-- The answer with the core affinity erased in the next state. -/
def eraseAffResult : Result → Result
  | .next t => .next t.eraseAff
  | .fault f => .fault f
  | .refused f => .refused f

@[simp] theorem eraseAffResult_next (t : State) : eraseAffResult (.next t) = .next t.eraseAff := rfl

@[simp] theorem eraseAffResult_answer (r : State × Status) :
    eraseAffResult (answer r) = answer (r.1.eraseAff, r.2) := rfl

@[simp] theorem eraseAffResult_eraseAffResult (r : Result) :
    eraseAffResult (eraseAffResult r) = eraseAffResult r := by
  cases r with
  | next t => rw [eraseAffResult_next, eraseAffResult_next, State.eraseAff_eraseAff]
  | fault f => rfl
  | refused f => rfl

/-- The check of R95 item 4 does not read the affinity. -/
theorem checkPin_eraseAff (p : PinId) (s : State) {k k' : Result} (h : k' = eraseAffResult k) :
    checkPin p s.eraseAff k' = eraseAffResult (checkPin p s k) := by
  by_cases hp : p.toNat < s.cfg.nPins <;> simp [checkPin, hp, h]

/-- The checks of R95 items 5 and 8 do not read the affinity. -/
theorem checkSlot_eraseAff (v : SlotId) (s : State) {k k' : Result} (h : k' = eraseAffResult k) :
    checkSlot v s.eraseAff k' = eraseAffResult (checkSlot v s k) := by
  by_cases hv : v.toNat < s.cfg.nSlots ∧ (s.slot v).valid = true <;> simp [checkSlot, hv, h]

/-! The channel operations read and write channel records only. -/

theorem cancelAlarm_eraseAff (p : PinId) (s : State) :
    cancelAlarm p s.eraseAff = (cancelAlarm p s).eraseAff := by
  cases h : (s.pin p).alarmPend <;> simp [cancelAlarm, h]

theorem applyWord_eraseAff (p : PinId) (cd : ClkDiv) (w : Word) (s : State) :
    applyWord p cd w s.eraseAff = (applyWord p cd w s).eraseAff := rfl

theorem scheduleStop_eraseAff (p : PinId) (dur : Word) (s : State) :
    scheduleStop p dur s.eraseAff = (scheduleStop p dur s).eraseAff := by
  by_cases h : 0 < uint32 dur <;> simp [scheduleStop, h]

theorem ensureBound_eraseAff (p : PinId) (s : State) :
    ensureBound p s.eraseAff = ((ensureBound p s).1.eraseAff, (ensureBound p s).2) := by
  cases hbound : (s.pin p).bound
  · cases hclaim : s.claimAnswer <;> simp [ensureBound, hbound, hclaim]
  · simp [ensureBound, hbound]

theorem chStopOp_eraseAff (p : PinId) (s : State) :
    chStopOp p s.eraseAff = ((chStopOp p s).1.eraseAff, (chStopOp p s).2) := by
  cases h : (s.pin p).bound <;> simp [chStopOp, h, cancelAlarm_eraseAff]

theorem startOp_eraseAff (p : PinId) (fq duty : Int) (dur : Word) (s : State) :
    startOp p fq duty dur s.eraseAff = ((startOp p fq duty dur s).1.eraseAff, (startOp p fq duty dur s).2) := by
  by_cases hfq : fq ≤ 0
  · simp only [startOp, if_pos hfq, chStopOp_eraseAff]
  by_cases hst : (encodeFD s.cfg fq duty).st = .ok
  · have hbound := ensureBound_eraseAff p s
    rcases heq : ensureBound p s with ⟨s1, bound⟩
    cases bound <;>
      simp [startOp, hfq, hst, hbound, heq, cancelAlarm_eraseAff, applyWord_eraseAff, scheduleStop_eraseAff]
  · simp [startOp, hfq, hst]

theorem retuneOp_eraseAff (p : PinId) (fq duty : Int) (s : State) :
    retuneOp p fq duty s.eraseAff = ((retuneOp p fq duty s).1.eraseAff, (retuneOp p fq duty s).2) := by
  cases hbound : (s.pin p).bound
  · simp [retuneOp, hbound]
  · by_cases hst : (encodeFD s.cfg fq duty).st = .ok <;>
      simp [retuneOp, hbound, hst, applyWord_eraseAff]

theorem alarmOp_eraseAff (p : PinId) (s : State) :
    alarmOp p s.eraseAff = ((alarmOp p s).1.eraseAff, (alarmOp p s).2) := by
  cases h : (s.pin p).alarmPend
  · simp [alarmOp, h]
  · simp only [alarmOp, State.eraseAff_pin, h, if_true]
    exact chStopOp_eraseAff p (s.setPin p { s.pin p with alarmPend := false })

/-! The slot operations carry the affinity along with the record. -/

theorem spkStopOp_eraseAff (v : SlotId) (s : State) :
    spkStopOp v s.eraseAff = ((spkStopOp v s).1.eraseAff, (spkStopOp v s).2) := by
  cases h : (s.slot v).playing
  · simp [spkStopOp, h]
  · have hstop := chStopOp_eraseAff (s.slot v).pin
      ((s.setSlot v { s.slot v with playing := false, dlValid := false, tmrReg := false }).emit
        [.cancelRepeating v])
    rw [State.eraseAff_emit, State.eraseAff_setSlot] at hstop
    simp only [spkStopOp, State.eraseAff_slot, SlotRec.eraseAff_playing, h, if_true]
    exact congrArg (fun r : State × Status => (r.1, Status.ok, r.2.word, (0 : Word))) hstop

theorem spkPlayStart_eraseAff (v : SlotId) (d : Word) (s : State) :
    spkPlayStart v d s.eraseAff = ((spkPlayStart v d s).1.eraseAff, (spkPlayStart v d s).2) := by
  simp only [spkPlayStart_spec, State.eraseAff_slot, State.eraseAff_cfg, State.eraseAff_env,
    SlotRec.eraseAff_pin, SlotRec.eraseAff_period, startOp_eraseAff, State.eraseAff_setSlot, State.eraseAff_emit]
  split <;> rfl

/-- Step 3 of EV_TICK. -/
theorem SlotRec.commitSwap_eraseAff (r : SlotRec) (c : Config) :
    r.eraseAff.commitSwap c = (r.commitSwap c).eraseAff := by
  cases h : r.swapDue
  · simp [commitSwap, h]
  · simp only [commitSwap, eraseAff_swapDue, h, if_true]; rfl

/-- Step 4 of EV_TICK. -/
theorem tickRearm_eraseAff (v : SlotId) (s : State) :
    tickRearm v s.eraseAff = (tickRearm v s).eraseAff := by
  cases h : (s.slot v).dirty
  · simp [tickRearm, h]
  · simp only [tickRearm, State.eraseAff_slot, SlotRec.eraseAff_dirty, h, if_true, State.eraseAff_setSlot,
      State.eraseAff_emit]
    rfl

theorem tickDuty_eraseAff (v : SlotId) (s : State) : tickDuty v s.eraseAff = tickDuty v s := by
  simp only [tickDuty, State.eraseAff_slot]; rfl

/-- Step 5 of EV_TICK. -/
theorem tickPublish_eraseAff (v : SlotId) (s : State) :
    tickPublish v s.eraseAff = ((tickPublish v s).1.eraseAff, (tickPublish v s).2) := by
  have hretune := retuneOp_eraseAff (s.slot v).pin (carrierFq s.cfg) (tickDuty v s)
    (s.setSlot v { s.slot v with index := nextIndex s.cfg (s.slot v) })
  rw [State.eraseAff_setSlot] at hretune
  simp only [tickPublish_spec, State.eraseAff_slot, tickDuty_eraseAff]
  exact congrArg (fun r : State × Status => (r.1, r.2, tickDuty v s)) hretune

/-- Steps 3 to 5 of EV_TICK. -/
theorem tickSteps_eraseAff (v : SlotId) (s : State) :
    let ticked := tickPublish v (tickRearm v (s.setSlot v ((s.slot v).commitSwap s.cfg)))
    tickPublish v (tickRearm v (s.eraseAff.setSlot v ((s.slot v).eraseAff.commitSwap s.cfg))) =
      (ticked.1.eraseAff, ticked.2) := by
  intro ticked
  rw [SlotRec.commitSwap_eraseAff, ← State.eraseAff_setSlot, tickRearm_eraseAff, tickPublish_eraseAff]

/-! The operations: but for SPK_INIT, erasing the affinity before is erasing it after. -/

theorem execSpkSetFreq_eraseAff (v : SlotId) (fq : Word) (s : State) :
    execSpkSetFreq v fq s.eraseAff = eraseAffResult (execSpkSetFreq v fq s) := by
  refine checkSlot_eraseAff v s ?_
  by_cases h : fq = (s.slot v).freq ∨ sint32 fq ≤ 0
  · simp [h]
  · simp only [State.eraseAff_slot, SlotRec.eraseAff_freq, if_neg h, eraseAffResult_answer,
      State.eraseAff_setSlot]
    rfl

theorem execSpkSetVol_eraseAff (v : SlotId) (vol : Word) (s : State) :
    execSpkSetVol v vol s.eraseAff = eraseAffResult (execSpkSetVol v vol s) := by
  refine checkSlot_eraseAff v s ?_
  by_cases h : sint32 vol = (s.slot v).vol.toNat
  · simp [h]
  · simp only [State.eraseAff_slot, SlotRec.eraseAff_vol, if_neg h, eraseAffResult_answer,
      State.eraseAff_setSlot]
    rfl

theorem execSpkSetWave_eraseAff (v : SlotId) (w : BitVec 8) (s : State) :
    execSpkSetWave v w s.eraseAff = eraseAffResult (execSpkSetWave v w s) := by
  refine checkSlot_eraseAff v s ?_
  by_cases hw : w.toNat < s.cfg.waves.length
  · cases hp : (s.slot v).playing <;>
      simp only [State.eraseAff_cfg, State.eraseAff_slot, SlotRec.eraseAff_playing, hw, hp, Bool.false_eq_true,
        if_true, if_false, eraseAffResult_answer, State.eraseAff_setSlot] <;> rfl
  · simp [hw]

theorem execSpkPlay_eraseAff (v : SlotId) (d : Word) (s : State) :
    execSpkPlay v d s.eraseAff = eraseAffResult (execSpkPlay v d s) := by
  refine checkSlot_eraseAff v s ?_
  cases hp : (s.slot v).playing
  · simp [hp, spkPlayStart_eraseAff]
  · simp only [State.eraseAff_slot, SlotRec.eraseAff_playing, hp, if_true, eraseAffResult_answer,
      State.eraseAff_setSlot, State.eraseAff_env]
    split <;> rfl

theorem execSpkStop_eraseAff (v : SlotId) (s : State) :
    execSpkStop v s.eraseAff = eraseAffResult (execSpkStop v s) := by
  refine checkSlot_eraseAff v s ?_
  simp [spkStopOp_eraseAff]

theorem execEvTick_eraseAff (v : SlotId) (s : State) :
    execEvTick v s.eraseAff = eraseAffResult (execEvTick v s) := by
  refine checkSlot_eraseAff v s ?_
  cases hp : (s.slot v).playing
  · simp [hp]
  cases hd : (s.slot v).deadlinePassed s.env.now
  · simp [hp, hd, tickSteps_eraseAff]
  · simp [hp, hd, spkStopOp_eraseAff]

/-- SPK_INIT is the one operation that writes the affinity, so its next states agree once it is erased. -/
theorem execSpkInit_eraseAff (v : SlotId) (p : PinId) (aff : Bool) (fq vol : Word) (s : State) :
    eraseAffResult (execSpkInit v p aff fq vol s.eraseAff) = eraseAffResult (execSpkInit v p aff fq vol s) := by
  by_cases h : v.toNat < s.cfg.nSlots ∧ p.toNat < s.cfg.nPins ∧ (s.slot v).valid = false ∧ 0 < sint32 fq
  · simp only [execSpkInit, State.eraseAff_cfg, State.eraseAff_slot, SlotRec.eraseAff_valid, if_pos h,
      eraseAffResult_next, State.eraseAff_respond, State.eraseAff_setSlot, State.eraseAff_eraseAff]
    rfl
  · simp [execSpkInit, h]

/-- R194 for every operation: from the state and from the erased state the answers agree up to the affinity. -/
theorem exec_eraseAff (i : Instr) (s : State) :
    eraseAffResult (exec i s.eraseAff) = eraseAffResult (exec i s) := by
  have erased {r r' : Result} (h : r' = eraseAffResult r) : eraseAffResult r' = eraseAffResult r := by
    rw [h, eraseAffResult_eraseAffResult]
  cases i with
  | encode fq duty => exact erased rfl
  | start p fq duty dur => exact erased (checkPin_eraseAff p s (by simp [startOp_eraseAff]))
  | retune p fq duty => exact erased (checkPin_eraseAff p s (by simp [retuneOp_eraseAff]))
  | chStop p => exact erased (checkPin_eraseAff p s (by simp [chStopOp_eraseAff]))
  | spkInit v p aff fq vol => exact execSpkInit_eraseAff v p aff fq vol s
  | spkSetFreq v fq => exact erased (execSpkSetFreq_eraseAff v fq s)
  | spkSetVol v vol => exact erased (execSpkSetVol_eraseAff v vol s)
  | spkSetWave v w => exact erased (execSpkSetWave_eraseAff v w s)
  | spkPlay v d => exact erased (execSpkPlay_eraseAff v d s)
  | spkStop v => exact erased (execSpkStop_eraseAff v s)
  | spkGetFreq v => exact erased (checkSlot_eraseAff v s (by simp))
  | spkGetVol v => exact erased (checkSlot_eraseAff v s (by simp))
  | spkIsPlaying v => exact erased (checkSlot_eraseAff v s (by simp))
  | evTick v => exact erased (execEvTick_eraseAff v s)
  | evAlarm p => exact erased (checkPin_eraseAff p s (by simp [alarmOp_eraseAff]))

/-- An answer that is a next state once the affinity is erased is a next state. -/
theorem eraseAffResult_eq_next {r : Result} {t : State} (h : eraseAffResult r = .next t) :
    ∃ u, r = .next u ∧ u.eraseAff = t := by
  cases r with
  | next u => exact ⟨u, rfl, Host.Outcome.next.inj h⟩
  | fault f => cases h
  | refused f => cases h

/-- Settles O45, by the commutation of every operation with the erasure. -/
theorem affinityHasNoEffect : Obligations.AffinityHasNoEffect := by
  unfold Obligations.AffinityHasNoEffect
  intro i s t h
  exact eraseAffResult_eq_next (by rw [exec_eraseAff, h, eraseAffResult_next])

end Sys2Proof.Machine
end

section
/-! PROOF. The waveform pipeline: the index advance (R224), and the one operation that commits a pending swap
(R225). Both rest on the record that a publishing EV_TICK leaves in its slot (R220). -/

namespace Sys2Proof.Machine

/-! ### The record after a tick -/

theorem exec_evTick (v : SlotId) (s : State) : exec (.evTick v) s = execEvTick v s := rfl

theorem SlotRec.deadlinePassed_iff (r : SlotRec) (now : Time) :
    r.deadlinePassed now = true ↔ r.dlValid = true ∧ r.dl ≤ now := by
  simp [SlotRec.deadlinePassed]

/-- The slot's record after steps 3 to 5 of EV_TICK (R220). -/
def SlotRec.ticked (r : SlotRec) (c : Config) : SlotRec :=
  let r1 := r.commitSwap c
  { r1 with
    tmrInterval := if r1.dirty then r1.period else r1.tmrInterval
    dirty := false
    index := nextIndex c r1 }

section Ticked

variable (r : SlotRec) (c : Config)

@[simp] theorem SlotRec.ticked_wave : (r.ticked c).wave = (r.commitSwap c).wave := rfl
@[simp] theorem SlotRec.ticked_pendValid : (r.ticked c).pendValid = (r.commitSwap c).pendValid := rfl
@[simp] theorem SlotRec.ticked_index : (r.ticked c).index = nextIndex c (r.commitSwap c) := rfl

/-- The swap does not move the index: the new waveform starts where the old one wrapped (R225). -/
@[simp] theorem SlotRec.commitSwap_index : (r.commitSwap c).index = r.index := by
  rcases r.commitSwap_cases c with ⟨-, h⟩ | ⟨-, -, h⟩ <;> rw [h]
  rfl

end Ticked

/-- What a tick that publishes does to the Speaker records: its own becomes `ticked`, RETUNE touches none. -/
theorem execEvTick_slots {v : SlotId} {s : State} (hs : v.toNat < s.cfg.nSlots)
    (hv : (s.slot v).valid = true) (hp : (s.slot v).playing = true)
    (hd : (s.slot v).deadlinePassed s.env.now = false) :
    ∃ t, execEvTick v s = .next t ∧ t.slot v = (s.slot v).ticked s.cfg ∧ SameSlotsBut v s t := by
  refine ⟨_, execEvTick_publish hs hv hp hd, ?own, fun u hu => ?others⟩
  all_goals rw [State.respond_slot, (retuneOp_frame ..).sameSlots]
  case own => rw [State.setSlot_slot_self]; rfl
  case others => rw [State.setSlot_slot_ne _ hu, State.emit_slot]

/-! ### The index advance (R224) -/

/-- The table sizes of R7 are the powers of two up to 256. -/
theorem tableSizeLegal_iff (n : Nat) : tableSizeLegal n = true ↔ ∃ k ≤ 8, n = 2 ^ k := by
  constructor
  · intro h
    have hmem : n ∈ (List.range 9).map (2 ^ ·) := List.contains_iff_mem.1 h
    obtain ⟨k, hk, rfl⟩ := List.mem_map.1 hmem
    exact ⟨k, Nat.lt_succ_iff.1 (List.mem_range.1 hk), rfl⟩
  · rintro ⟨k, hk, rfl⟩
    interval_cases k <;> rfl

/-- Every index reads a legal entry: one past the catalogue reads as noise. -/
theorem waveLegal_wave {c : Config} (h : configLegal c = true) (w : BitVec 8) :
    waveLegal (wave c w) = true := by
  have hall : ∀ x ∈ c.waves, waveLegal x = true := by
    simp only [configLegal, Bool.and_eq_true] at h
    exact List.all_eq_true.1 h.1.2
  rw [wave, List.getD_eq_getElem?_getD]
  cases hw : c.waves[w.toNat]? with
  | none => rfl
  | some x => exact hall x (List.mem_of_getElem? hw)

theorem waveSize_eq_two_pow {c : Config} (h : configLegal c = true) (w : BitVec 8) :
    ∃ k ≤ 8, waveSize c w = 2 ^ k := by
  have hlegal := waveLegal_wave h w
  rw [waveSize]
  cases hw : wave c w with
  | table bytes => rw [hw] at hlegal; exact (tableSizeLegal_iff _).1 hlegal
  | noise => exact ⟨0, by omega, rfl⟩

theorem waveSize_of_noise {c : Config} {w : BitVec 8} (h : wave c w = .noise) : waveSize c w = 1 := by
  rw [waveSize, h]; rfl

/-- The mask of a legal size is the remainder. -/
theorem and_waveSize_sub_one {c : Config} (h : configLegal c = true) (w : BitVec 8) (n : Nat) :
    n &&& (waveSize c w - 1) = n % waveSize c w := by
  obtain ⟨k, -, hk⟩ := waveSize_eq_two_pow h w
  rw [hk, Nat.and_two_pow_sub_one_eq_mod]

/-- The advanced index fits the 8 bits of `INDEX` (R39). -/
theorem nextIndex_toNat {c : Config} (h : configLegal c = true) (r : SlotRec) :
    (nextIndex c r).toNat = (r.index.toNat + 1) % waveSize c r.wave := by
  obtain ⟨k, hk, hsize⟩ := waveSize_eq_two_pow h r.wave
  have hle : waveSize c r.wave ≤ 2 ^ 8 := hsize ▸ Nat.pow_le_pow_right (by omega) hk
  have hpos : 0 < waveSize c r.wave := hsize ▸ Nat.two_pow_pos k
  rw [nextIndex, and_waveSize_sub_one h, BitVec.toNat_ofNat]
  exact Nat.mod_eq_of_lt ((Nat.mod_lt _ hpos).trans_le hle)

/-- Settles O51, by the record after the tick and the power-of-two sizes of R7. -/
theorem indexAdvancesModuloTheSize : Obligations.IndexAdvancesModuloTheSize := by
  unfold Obligations.IndexAdvancesModuloTheSize
  intro s v hc hs hv hp hd
  have hd : (s.slot v).deadlinePassed s.env.now = false := by
    rwa [← Bool.not_eq_true, SlotRec.deadlinePassed_iff]
  obtain ⟨t, ht, hslot, -⟩ := execEvTick_slots hs hv hp hd
  have hmod : (t.slot v).index.toNat = ((s.slot v).index.toNat + 1) % waveSize s.cfg (t.slot v).wave := by
    rw [hslot, SlotRec.ticked_index, nextIndex_toNat hc, SlotRec.commitSwap_index, SlotRec.ticked_wave]
  refine ⟨t, (exec_evTick v s).trans ht, ?mask, hmod, fun hnoise => ?noise⟩
  case mask => rw [and_waveSize_sub_one hc]; exact hmod
  case noise =>
    rw [waveSize_of_noise hnoise, Nat.mod_one] at hmod
    exact BitVec.eq_of_toNat_eq hmod

/-! ### Operations that commit no swap -/

/-- From record `r` to `r'` no pending swap is dropped, and the waveform of a playing slot stays (R225). An
unconstructed record may change freely: SPK_INIT writes it. -/
def KeepsWave (r r' : SlotRec) : Prop :=
  r.valid = true → (r.pendValid = true → r'.pendValid = true) ∧ (r.playing = true → r'.wave = r.wave)

theorem KeepsWave.of_eq {r r' : SlotRec} (hp : r'.pendValid = r.pendValid) (hw : r'.wave = r.wave) :
    KeepsWave r r' := fun _ => ⟨fun h => hp.trans h, fun _ => hw⟩

/-- Every slot's waveform and pending swap are kept. -/
def SlotsKeepWave (s t : State) : Prop := ∀ v, KeepsWave (s.slot v) (t.slot v)

theorem SlotsKeepWave.of_sameSlots {s t : State} (h : SameSlots s t) : SlotsKeepWave s t := fun v =>
  .of_eq (by rw [h v]) (by rw [h v])

theorem SlotsKeepWave.trans_sameSlots {s t u : State} (h : SlotsKeepWave s t) (k : SameSlots t u) :
    SlotsKeepWave s u := fun v => by rw [k v]; exact h v

/-- Writing one slot's record, after anything that writes none. -/
theorem SlotsKeepWave.of_setSlot {s s' : State} {u : SlotId} {r : SlotRec} (hs : SameSlots s s')
    (hr : KeepsWave (s.slot u) r) : SlotsKeepWave s (s'.setSlot u r) := fun v => by
  by_cases hv : v = u
  · rw [hv, State.setSlot_slot_self]; exact hr
  · rw [State.setSlot_slot_ne _ hv, hs v]; exact .of_eq rfl rfl

/-- An operation that answers a next state keeps every slot's waveform and pending swap. -/
def ResultKeepsWave (s : State) (k : Result) : Prop := ∀ t, k = .next t → SlotsKeepWave s t

/-- The response is no part of the Speaker records. -/
theorem ResultKeepsWave.respond {s t : State} (h : SlotsKeepWave s t) {st : Status} {x y : Word} :
    ResultKeepsWave s (.next (t.respond st x y)) := by
  rintro _ ⟨⟩
  exact h

theorem ResultKeepsWave.respond_self {s : State} {st : Status} {x y : Word} :
    ResultKeepsWave s (.next (s.respond st x y)) := .respond (.of_sameSlots fun _ => rfl)

/-- A setter that answers writes its own slot's record only. -/
theorem ResultKeepsWave.answer_setSlot {s : State} {u : SlotId} {r : SlotRec} {st : Status}
    (h : KeepsWave (s.slot u) r) : ResultKeepsWave s (answer (s.setSlot u r, st)) :=
  .respond (.of_setSlot (fun _ => rfl) h)

theorem ResultKeepsWave.checkSlot {v : SlotId} {s : State} {k : Result} (h : ResultKeepsWave s k) :
    ResultKeepsWave s (checkSlot v s k) := by
  unfold Machine.checkSlot; split
  · exact h
  · exact .respond_self

/-- A channel operation writes no Speaker record. -/
theorem ResultKeepsWave.checkPin {p : PinId} {s : State} {r : State × Status} (h : PinFrame p s r.1) :
    ResultKeepsWave s (checkPin p s (answer r)) := by
  unfold Machine.checkPin; split
  · exact .respond (.of_sameSlots h.sameSlots)
  · exact .respond_self

/-- SPK_INIT writes an unconstructed slot only (R95 item 8). -/
theorem execSpkInit_keepsWave (v : SlotId) (p : PinId) (aff : Bool) (fq vol : Word) (s : State) :
    ResultKeepsWave s (execSpkInit v p aff fq vol s) := by
  unfold execSpkInit; split
  case isTrue h =>
    obtain ⟨-, -, hinvalid, -⟩ := h
    refine .respond (.of_setSlot (fun _ => rfl) fun hvalid => ?_)
    rw [hinvalid] at hvalid; cases hvalid
  case isFalse => exact .respond_self

theorem execSpkSetFreq_keepsWave (v : SlotId) (fq : Word) (s : State) :
    ResultKeepsWave s (execSpkSetFreq v fq s) := by
  refine .checkSlot ?_
  dsimp only; split
  · exact .respond_self
  · exact .answer_setSlot (.of_eq rfl rfl)

theorem execSpkSetVol_keepsWave (v : SlotId) (vol : Word) (s : State) :
    ResultKeepsWave s (execSpkSetVol v vol s) := by
  refine .checkSlot ?_
  dsimp only; split
  · exact .respond_self
  · exact .answer_setSlot (.of_eq rfl rfl)

/-- SPK_SET_WAVE on a playing slot makes the swap pending, and writes `WAVE` of a stopped one (R185). -/
theorem execSpkSetWave_keepsWave (v : SlotId) (w : BitVec 8) (s : State) :
    ResultKeepsWave s (execSpkSetWave v w s) := by
  refine .checkSlot ?_
  dsimp only; split
  case isFalse => exact .respond_self
  case isTrue =>
    split
    · exact .answer_setSlot fun _ => ⟨fun _ => rfl, fun _ => rfl⟩
    case isFalse hstopped =>
      exact .answer_setSlot fun _ => ⟨id, fun hp => absurd hp hstopped⟩

/-- SPK_PLAY writes the timer and the deadline, and its START the pin (R186). -/
theorem execSpkPlay_keepsWave (v : SlotId) (d : Word) (s : State) :
    ResultKeepsWave s (execSpkPlay v d s) := by
  refine .checkSlot ?_
  dsimp only; split
  · refine .answer_setSlot ?_
    split <;> exact .of_eq rfl rfl
  · rw [spkPlayStart_spec]
    refine .respond (.of_setSlot ?start ?record)
    case start => exact fun u => (startOp_frame ..).sameSlots u
    case record => split <;> exact .of_eq rfl rfl

/-- SPK_STOP writes the slot's flags, and its CH_STOP the pin (R187). -/
theorem spkStopOp_keepsWave (v : SlotId) (s : State) : SlotsKeepWave s (spkStopOp v s).1 := by
  rcases spkStopOp_cases v s with ⟨-, h⟩ | ⟨-, h⟩ <;> rw [h]
  · exact .of_sameSlots fun _ => rfl
  · refine .trans_sameSlots ?_ (chStopOp_frame ..).sameSlots
    exact .of_setSlot (s' := s.emit [.cancelRepeating v]) (fun _ => rfl) (.of_eq rfl rfl)

theorem execSpkStop_keepsWave (v : SlotId) (s : State) : ResultKeepsWave s (execSpkStop v s) :=
  .checkSlot (.respond (spkStopOp_keepsWave v s))

/-! ### The tick that commits one (R225) -/

/-- A tick of a stopped slot is a no-op (R220 step 1). -/
theorem execEvTick_of_stopped {v : SlotId} {s : State} (hp : (s.slot v).playing = false) :
    execEvTick v s = checkSlot v s (answer (s, .noop)) := by
  rw [execEvTick]; simp only [hp, Bool.false_eq_true, if_false]

/-- A tick of a playing slot whose deadline has passed is SPK_STOP (R220 step 2). -/
theorem execEvTick_of_deadlinePassed {v : SlotId} {s : State} (hp : (s.slot v).playing = true)
    (hd : (s.slot v).deadlinePassed s.env.now = true) : execEvTick v s = execSpkStop v s := by
  rw [execEvTick, execSpkStop]; simp only [hp, hd, if_true]

/-- The slot's swap is pending at the wrap point in `s`, and committed in `t`. -/
def CommitsSwap (v : SlotId) (s t : State) : Prop :=
  (s.slot v).index = 0 ∧ (s.slot v).pendValid = true ∧ (t.slot v).wave = (s.slot v).pend

/-- Step 3 of EV_TICK keeps the waveform unless it commits a swap at the wrap point. -/
theorem SlotRec.ticked_keepsWave (r : SlotRec) (c : Config) :
    KeepsWave r (r.ticked c) ∨ r.index = 0 ∧ r.pendValid = true ∧ (r.ticked c).wave = r.pend := by
  rcases r.commitSwap_cases c with ⟨-, h⟩ | ⟨hindex, hpend, h⟩
  · exact .inl (.of_eq (by rw [ticked_pendValid, h]) (by rw [ticked_wave, h]))
  · exact .inr ⟨hindex, hpend, by rw [ticked_wave, h]; rfl⟩

/-- EV_TICK keeps every slot's waveform but for a swap it commits on its own slot. -/
theorem execEvTick_keepsWave {u : SlotId} {s t : State} (h : execEvTick u s = .next t) (v : SlotId) :
    KeepsWave (s.slot v) (t.slot v) ∨ v = u ∧ CommitsSwap u s t := by
  by_cases hlegal : u.toNat < s.cfg.nSlots ∧ (s.slot u).valid = true
  case neg =>
    rw [execEvTick, checkSlot_of_not hlegal] at h
    exact .inl (ResultKeepsWave.respond_self t h v)
  obtain ⟨hs, hv⟩ := hlegal
  cases hp : (s.slot u).playing
  case false =>
    rw [execEvTick_of_stopped hp] at h
    exact .inl (ResultKeepsWave.checkSlot (.respond_self) t h v)
  cases hd : (s.slot u).deadlinePassed s.env.now
  case true =>
    rw [execEvTick_of_deadlinePassed hp hd] at h
    exact .inl (execSpkStop_keepsWave u s t h v)
  obtain ⟨t', ht', hown, hothers⟩ := execEvTick_slots hs hv hp hd
  obtain rfl : t' = t := Host.Outcome.next.inj (ht'.symm.trans h)
  by_cases hvu : v = u
  · subst hvu
    rw [CommitsSwap, hown]
    exact ((s.slot v).ticked_keepsWave s.cfg).imp_right fun hswap => ⟨rfl, hswap⟩
  · rw [hothers v hvu]; exact .inl (.of_eq rfl rfl)

/-- R225 for every operation: on every slot the waveform and a pending swap are kept, or the operation is the
slot's EV_TICK and commits the swap. -/
theorem exec_keepsWave {i : Instr} {s t : State} (h : exec i s = .next t) (v : SlotId) :
    KeepsWave (s.slot v) (t.slot v) ∨ i = .evTick v ∧ CommitsSwap v s t := by
  have kept {k : Result} (hk : ResultKeepsWave s k) (hkt : k = .next t) :
      KeepsWave (s.slot v) (t.slot v) ∨ i = .evTick v ∧ CommitsSwap v s t := .inl (hk t hkt v)
  cases i with
  | encode fq duty => exact kept (.respond_self) h
  | start p fq duty dur => exact kept (.checkPin (startOp_frame ..)) h
  | retune p fq duty => exact kept (.checkPin (retuneOp_frame ..)) h
  | chStop p => exact kept (.checkPin (chStopOp_frame ..)) h
  | spkInit u p aff fq vol => exact kept (execSpkInit_keepsWave u p aff fq vol s) h
  | spkSetFreq u fq => exact kept (execSpkSetFreq_keepsWave u fq s) h
  | spkSetVol u vol => exact kept (execSpkSetVol_keepsWave u vol s) h
  | spkSetWave u w => exact kept (execSpkSetWave_keepsWave u w s) h
  | spkPlay u d => exact kept (execSpkPlay_keepsWave u d s) h
  | spkStop u => exact kept (execSpkStop_keepsWave u s) h
  | spkGetFreq u => exact kept (.checkSlot (.respond_self)) h
  | spkGetVol u => exact kept (.checkSlot (.respond_self)) h
  | spkIsPlaying u => exact kept (.checkSlot (.respond_self)) h
  | evTick u =>
    rcases execEvTick_keepsWave h v with hkept | ⟨rfl, hswap⟩
    · exact .inl hkept
    · exact .inr ⟨rfl, hswap⟩
  | evAlarm p => exact kept (.checkPin (alarmOp_frame ..)) h

/-- Settles O49: an operation that keeps the waveform meets neither premise, and the tick that commits the swap
is the one the statement names. -/
theorem waveChangesOnlyAtTheWrap : Obligations.WaveChangesOnlyAtTheWrap := by
  unfold Obligations.WaveChangesOnlyAtTheWrap
  intro i s t v h hv
  rcases exec_keepsWave h v with hkept | ⟨hi, hindex, hpend, hwave⟩
  · obtain ⟨pendKept, waveKept⟩ := hkept hv
    refine ⟨fun hp hdropped => ?_, fun hplaying hchanged => absurd (waveKept hplaying) hchanged⟩
    rw [pendKept hp] at hdropped; cases hdropped
  · exact ⟨fun _ _ => ⟨hi, hindex⟩, fun _ _ => ⟨hi, hindex, hpend, hwave⟩⟩

end Sys2Proof.Machine
end

section
/-! PROOF. A rejected encoding (R252): where Encode rejects, START and RETUNE end with its status in the state
they began in, and answering from that state writes the response only. -/

namespace Sys2Proof.Machine

theorem exec_retune (p : PinId) (fq duty : Word) (s : State) :
    exec (.retune p fq duty) s = execRetune p fq duty s := rfl

/-- A response writes no record, no call and no port field (R83). -/
theorem OnlyResponds.respond (s : State) (st : Status) (x y : Word) : OnlyResponds s (s.respond st x y) :=
  ⟨.refl s, fun q => State.respond_pin s st x y q, fun u => State.respond_slot s st x y u,
    State.respond_trace s st x y, State.respond_freeCount s st x y⟩

/-- A channel operation of an existing pin whose effect leaves the state alone only answers its status. -/
theorem checkPin_answer_onlyResponds {p : PinId} {s : State} {r : State × Status} {st : Status}
    (hp : p.toNat < s.cfg.nPins) (hr : r = (s, st)) :
    ∃ t, checkPin p s (answer r) = .next t ∧ Responds st 0 0 t ∧ OnlyResponds s t := by
  subst hr
  exact ⟨_, checkPin_of_lt hp _, ⟨rfl, rfl, rfl⟩, .respond s st 0 0⟩

/-- START encodes before it claims, cancels or schedules (R150), so a rejection precedes every effect. -/
theorem startOp_of_rejected {p : PinId} {fq duty : Int} {dur : Word} {s : State} (hfq : 0 < fq)
    (hrej : (encodeFD s.cfg fq duty).st ≠ .ok) :
    startOp p fq duty dur s = (s, (encodeFD s.cfg fq duty).st) := by
  rcases startOp_cases p fq duty dur s with ⟨hstop, -⟩ | ⟨-, -, hrejected⟩ | ⟨-, hok, -⟩ | ⟨-, hok, -⟩
  · exact absurd hfq (not_lt.2 hstop)
  · exact hrejected
  · exact absurd hok hrej
  · exact absurd hok hrej

/-- RETUNE encodes before it applies the word (R155), so a rejection precedes every effect. -/
theorem retuneOp_of_rejected {p : PinId} {fq duty : Int} {s : State} (hbound : (s.pin p).bound = true)
    (hrej : (encodeFD s.cfg fq duty).st ≠ .ok) :
    retuneOp p fq duty s = (s, (encodeFD s.cfg fq duty).st) := by
  rcases retuneOp_cases p fq duty s with ⟨hunbound, -⟩ | ⟨-, -, hrejected⟩ | ⟨-, hok, -⟩
  · exact absurd (hbound.symm.trans hunbound) (by decide)
  · exact hrejected
  · exact absurd hok hrej

/-- Settles O27: a rejection leaves both effects at the state they began in, so the answer is all they write. -/
theorem rejectedEncodingChangesNothing : Obligations.RejectedEncodingChangesNothing := by
  unfold Obligations.RejectedEncodingChangesNothing
  intro s p fq duty dur e hp hrej
  refine ⟨fun hfq => ?start, fun hbound => ?retune⟩
  case start =>
    rw [exec_start, execStart]
    exact checkPin_answer_onlyResponds hp (startOp_of_rejected hfq hrej)
  case retune =>
    rw [exec_retune, execRetune]
    exact checkPin_answer_onlyResponds hp (retuneOp_of_rejected hbound hrej)

end Sys2Proof.Machine
end

section
/-! PROOF. Construction is once per reset (R29 to R31, R191, R284): no operation but SPK_INIT writes `VALID`,
`PIN` or `AFF` of any slot, and SPK_INIT of a constructed slot is ILLEGAL. -/

namespace Sys2Proof.Machine

/-! ### The fields that only SPK_INIT writes -/

/-- `VALID`, `PIN` and `AFF` (R29 to R31). -/
def SlotRec.construction (r : SlotRec) : Bool × PinId × Bool := (r.valid, r.pin, r.aff)

section Records

variable (r : SlotRec) (c : Config)

@[simp] theorem SlotRec.commitSwap_construction : (r.commitSwap c).construction = r.construction := by
  rcases r.commitSwap_cases c with ⟨-, h⟩ | ⟨-, -, h⟩ <;> rw [h]
  rfl

@[simp] theorem SlotRec.ticked_construction : (r.ticked c).construction = r.construction :=
  r.commitSwap_construction c

end Records

/-- Every slot's construction is as before. -/
def SameConstruction (s t : State) : Prop := ∀ v, (t.slot v).construction = (s.slot v).construction

theorem SameConstruction.of_sameSlots {s t : State} (h : SameSlots s t) : SameConstruction s t := fun v =>
  congrArg SlotRec.construction (h v)

theorem SameConstruction.refl (s : State) : SameConstruction s s := fun _ => rfl

theorem SameConstruction.trans {s t u : State} (h : SameConstruction s t) (k : SameConstruction t u) :
    SameConstruction s u := fun v => (k v).trans (h v)

/-- Writing one slot's record with its construction kept. -/
theorem SameConstruction.of_sameSlotsBut {s t : State} {u : SlotId} (hothers : SameSlotsBut u s t)
    (hown : (t.slot u).construction = (s.slot u).construction) : SameConstruction s t := fun v => by
  by_cases hv : v = u
  · rw [hv, hown]
  · rw [hothers v hv]

/-- Writing one slot's record, after anything that writes none. -/
theorem SameConstruction.of_setSlot {s s' : State} {u : SlotId} {r : SlotRec} (hs : SameSlots s s')
    (hr : r.construction = (s.slot u).construction) : SameConstruction s (s'.setSlot u r) :=
  .of_sameSlotsBut (fun v hv => (State.setSlot_slot_ne s' hv r).trans (hs v))
    (by rw [State.setSlot_slot_self, hr])

/-! ### Operations -/

/-- An operation that answers a next state answers one with `P`. -/
def Ensures (P : State → Prop) (k : Result) : Prop := ∀ t, k = .next t → P t

theorem Ensures.next {P : State → Prop} {t : State} (h : P t) : Ensures P (.next t) := by
  rintro _ ⟨⟩
  exact h

/-- An operation behind the check of R95 item 4 is ILLEGAL or runs. -/
theorem Ensures.checkPin {P : State → Prop} {p : PinId} {s : State} {k : Result} (hillegal : P s.illegal)
    (hruns : Ensures P k) : Ensures P (checkPin p s k) := by
  rcases Nat.lt_or_ge p.toNat s.cfg.nPins with h | h
  · rwa [checkPin_of_lt h]
  · rw [checkPin_of_le h]; exact .next hillegal

/-- An operation behind the checks of R95 items 5 and 8 is ILLEGAL or runs. -/
theorem Ensures.checkSlot {P : State → Prop} {v : SlotId} {s : State} {k : Result} (hillegal : P s.illegal)
    (hruns : Ensures P k) : Ensures P (checkSlot v s k) := by
  by_cases h : v.toNat < s.cfg.nSlots ∧ (s.slot v).valid = true
  · rwa [checkSlot_of_valid h.1 h.2]
  · rw [checkSlot_of_not h]; exact .next hillegal

/-- An operation that answers a next state keeps every slot's construction. -/
abbrev KeepsConstruction (s : State) (k : Result) : Prop := Ensures (SameConstruction s) k

theorem KeepsConstruction.respond {s t : State} (h : SameConstruction s t) {st : Status} {x y : Word} :
    KeepsConstruction s (.next (t.respond st x y)) := .next h

theorem KeepsConstruction.answer {s : State} {r : State × Status} (h : SameConstruction s r.1) :
    KeepsConstruction s (Machine.answer r) := .respond h

/-- A channel operation writes no Speaker record. -/
theorem KeepsConstruction.onPin {p : PinId} {s : State} {r : State × Status} (h : PinFrame p s r.1) :
    KeepsConstruction s (checkPin p s (Machine.answer r)) :=
  .checkPin (.refl s) (KeepsConstruction.answer (.of_sameSlots h.sameSlots))

theorem KeepsConstruction.onSlot {v : SlotId} {s : State} {k : Result} (h : KeepsConstruction s k) :
    KeepsConstruction s (checkSlot v s k) := .checkSlot (.refl s) h

theorem execSpkSetFreq_keepsConstruction (v : SlotId) (fq : Word) (s : State) :
    KeepsConstruction s (execSpkSetFreq v fq s) := by
  refine .onSlot ?_
  dsimp only; split
  case isTrue => exact .answer (.refl s)
  case isFalse => exact .answer (.of_setSlot (fun _ => rfl) rfl)

theorem execSpkSetVol_keepsConstruction (v : SlotId) (vol : Word) (s : State) :
    KeepsConstruction s (execSpkSetVol v vol s) := by
  refine .onSlot ?_
  dsimp only; split
  case isTrue => exact .answer (.refl s)
  case isFalse => exact .answer (.of_setSlot (fun _ => rfl) rfl)

theorem execSpkSetWave_keepsConstruction (v : SlotId) (w : BitVec 8) (s : State) :
    KeepsConstruction s (execSpkSetWave v w s) := by
  refine .onSlot ?_
  dsimp only; split
  case isTrue => split <;> exact .answer (.of_setSlot (fun _ => rfl) rfl)
  case isFalse => exact .respond (.refl s)

theorem spkPlayStart_sameConstruction (v : SlotId) (d : Word) (s : State) :
    SameConstruction s (spkPlayStart v d s).1 := by
  rw [spkPlayStart_spec]
  have start := (startOp_frame (s.slot v).pin (carrierFq s.cfg) 0 0 s).sameSlots
  refine .of_setSlot start ?_
  split <;> rfl

theorem execSpkPlay_keepsConstruction (v : SlotId) (d : Word) (s : State) :
    KeepsConstruction s (execSpkPlay v d s) := by
  refine .onSlot ?_
  dsimp only; split
  case isTrue =>
    refine .answer (.of_setSlot (fun _ => rfl) ?_)
    split <;> rfl
  case isFalse => exact .respond (spkPlayStart_sameConstruction v d s)

theorem spkStopOp_sameConstruction (v : SlotId) (s : State) : SameConstruction s (spkStopOp v s).1 := by
  rcases spkStopOp_cases v s with ⟨-, h⟩ | ⟨-, h⟩ <;> rw [h]
  · exact .refl s
  · refine .trans ?_ (.of_sameSlots (chStopOp_frame ..).sameSlots)
    exact .of_setSlot (s' := s.emit [.cancelRepeating v]) (fun _ => rfl) rfl

theorem execSpkStop_keepsConstruction (v : SlotId) (s : State) :
    KeepsConstruction s (execSpkStop v s) := .onSlot (.respond (spkStopOp_sameConstruction v s))

/-- A tick does nothing, is SPK_STOP, or leaves the record `ticked` (R220). -/
theorem execEvTick_keepsConstruction (v : SlotId) (s : State) :
    KeepsConstruction s (execEvTick v s) := by
  cases hp : (s.slot v).playing
  case false =>
    rw [execEvTick_of_stopped hp]
    exact .onSlot (.respond (.refl s))
  cases hd : (s.slot v).deadlinePassed s.env.now
  case true =>
    rw [execEvTick_of_deadlinePassed hp hd]
    exact execSpkStop_keepsConstruction v s
  by_cases h : v.toNat < s.cfg.nSlots ∧ (s.slot v).valid = true
  · obtain ⟨t, ht, hown, hothers⟩ := execEvTick_slots h.1 h.2 hp hd
    rw [ht]
    exact .next (.of_sameSlotsBut hothers (by rw [hown, SlotRec.ticked_construction]))
  · rw [execEvTick, checkSlot_of_not h]
    exact .respond (.refl s)

/-! ### SPK_INIT -/

theorem exec_spkInit (v : SlotId) (p : PinId) (aff : Bool) (fq vol : Word) (s : State) :
    exec (.spkInit v p aff fq vol) s = execSpkInit v p aff fq vol s := rfl

/-- There is no second SPK_INIT of a slot (R95 item 8, R191, R284). -/
theorem execSpkInit_of_valid {v : SlotId} {s : State} (hv : (s.slot v).valid = true) (p : PinId)
    (aff : Bool) (fq vol : Word) : execSpkInit v p aff fq vol s = .next s.illegal :=
  if_neg fun ⟨_, _, hinvalid, _⟩ => by rw [hv] at hinvalid; cases hinvalid

/-- SPK_INIT writes no slot but its own. -/
theorem execSpkInit_sameSlotsBut (v : SlotId) (p : PinId) (aff : Bool) (fq vol : Word) (s : State) :
    Ensures (SameSlotsBut v s) (execSpkInit v p aff fq vol s) := by
  unfold execSpkInit; split
  case isTrue => exact .next fun _ hu => State.setSlot_slot_ne s hu _
  case isFalse => exact .next fun _ _ => rfl

/-- SPK_INIT keeps a constructed slot, be it its own or another. -/
theorem execSpkInit_slot_of_valid {u v : SlotId} {s : State} (hv : (s.slot v).valid = true) (p : PinId)
    (aff : Bool) (fq vol : Word) :
    Ensures (fun t => t.slot v = s.slot v) (execSpkInit u p aff fq vol s) := by
  by_cases hvu : v = u
  · subst hvu
    rw [execSpkInit_of_valid hv]
    exact .next rfl
  · exact fun t ht => execSpkInit_sameSlotsBut u p aff fq vol s t ht v hvu

/-! ### The statement -/

/-- R284 for every operation: the construction of a constructed slot is kept. -/
theorem exec_construction_of_valid {i : Instr} {s t : State} {v : SlotId} (h : exec i s = .next t)
    (hv : (s.slot v).valid = true) : (t.slot v).construction = (s.slot v).construction := by
  have kept {k : Result} (hk : KeepsConstruction s k) (hkt : k = .next t) :
      (t.slot v).construction = (s.slot v).construction := hk t hkt v
  cases i with
  | encode fq duty => exact kept (.respond (.refl s)) h
  | start p fq duty dur => exact kept (.onPin (startOp_frame ..)) h
  | retune p fq duty => exact kept (.onPin (retuneOp_frame ..)) h
  | chStop p => exact kept (.onPin (chStopOp_frame ..)) h
  | spkInit u p aff fq vol => rw [execSpkInit_slot_of_valid hv p aff fq vol t h]
  | spkSetFreq u fq => exact kept (execSpkSetFreq_keepsConstruction u fq s) h
  | spkSetVol u vol => exact kept (execSpkSetVol_keepsConstruction u vol s) h
  | spkSetWave u w => exact kept (execSpkSetWave_keepsConstruction u w s) h
  | spkPlay u d => exact kept (execSpkPlay_keepsConstruction u d s) h
  | spkStop u => exact kept (execSpkStop_keepsConstruction u s) h
  | spkGetFreq u => exact kept (.onSlot (.respond (.refl s))) h
  | spkGetVol u => exact kept (.onSlot (.respond (.refl s))) h
  | spkIsPlaying u => exact kept (.onSlot (.respond (.refl s))) h
  | evTick u => exact kept (execEvTick_keepsConstruction u s) h
  | evAlarm p => exact kept (.onPin (alarmOp_frame ..)) h

/-- Settles O46: every operation keeps the construction of a constructed slot, and the ILLEGAL second SPK_INIT
only responds. -/
theorem constructedSlotsStayConstructed : Obligations.ConstructedSlotsStayConstructed := by
  unfold Obligations.ConstructedSlotsStayConstructed
  intro s v hv
  refine ⟨fun i t h => ?kept, fun p aff fq vol => ?second⟩
  case kept =>
    obtain ⟨hvalid, hpin, haff⟩ := by
      simpa only [SlotRec.construction, Prod.mk.injEq] using exec_construction_of_valid h hv
    exact ⟨hvalid.trans hv, hpin, haff⟩
  case second =>
    have hillegal : exec (.spkInit v p aff fq vol) s = .next s.illegal :=
      (exec_spkInit v p aff fq vol s).trans (execSpkInit_of_valid hv p aff fq vol)
    exact ⟨s.illegal, hillegal, ⟨rfl, rfl, rfl⟩, .respond s .illegal 0 0⟩

end Sys2Proof.Machine
end

section
/-! PROOF. The port's encodings (R80 to R82, R91, R92, R94, R98): the decoder and the encoder are inverse to each
other, which command words select which opcode, and a line of raw values assembles to the operation's words. -/

namespace Sys2Proof

/-! ### Decoding an encoding -/

theorem operands_length (i : Instr) : i.operands.length = i.opcode.format.operandCount := by
  cases i <;> rfl

/-- The command word of an operation selects its opcode, its target, and no reserved bit. -/
theorem decode_command (i : Instr) (a0 a1 a2 : Word) :
    decode i.command a0 a1 a2 = decodeAs i.opcode i.target a0 a1 a2 := by
  simp [decode, Instr.command]

/-- A known opcode with an operation's target and operand words is that operation, whatever follows. -/
theorem decodeAs_operands (i : Instr) (extra : List Word) :
    decodeAs i.opcode i.target ((i.operands ++ extra).getD 0 0) ((i.operands ++ extra).getD 1 0)
      ((i.operands ++ extra).getD 2 0) = .ok i := by
  cases i with
  | spkInit v p aff fq vol =>
    obtain ⟨hrsvd, hpin, haff⟩ := initWord_fields p aff
    change decodeAs .spkInit v (initWord p aff) fq vol = _
    rw [decodeAs, if_pos hrsvd, hpin, haff]
  | spkSetWave v w =>
    obtain ⟨hrsvd, hwave⟩ := waveWord_fields w
    change decodeAs .spkSetWave v (w.setWidth 32) _ _ = _
    rw [decodeAs, if_pos hrsvd, hwave]
  | _ => rfl

/-- Settles O1: the command word gives the opcode and target back, and the operand words the rest. -/
theorem decodeInvertsEncode : Obligations.DecodeInvertsEncode := by
  unfold Obligations.DecodeInvertsEncode
  refine fun i extra => ⟨(decode_command i ..).trans (decodeAs_operands i extra), ?_⟩
  rw [operandCount_command, encode, List.length_cons, operands_length, Nat.add_comm]

/-! ### Encoding what was decoded -/

theorem cmdRsvd_eq_zero_iff (cmd : Word) : cmdRsvd cmd = 0 ↔ cmd.toNat / 65536 = 0 := by
  rw [← BitVec.toNat_inj, cmdRsvd_toNat]; rfl

/-- A command word with `RSVD` 0 is the word of its fields (R81). -/
theorem commandWord_of_fields {cmd : Word} {o : Opcode} (hopc : o.code = cmdOpc cmd) (hrsvd : cmdRsvd cmd = 0) :
    commandWord o (cmdTgt cmd) = cmd := by
  rw [cmdRsvd_eq_zero_iff] at hrsvd
  apply BitVec.eq_of_toNat_eq
  rw [commandWord_toNat, hopc, cmdOpc_toNat, cmdTgt_toNat]
  omega

/-- The opcode map's count of operand words for a transaction that decodes (R82). -/
theorem operandCount_of_decode {cmd a0 a1 a2 : Word} {i : Instr} (h : decode cmd a0 a1 a2 = .ok i) :
    operandCount cmd = i.opcode.format.operandCount := by
  rw [operandCount, (decode_ok h).1]

theorem command_of_decode {cmd a0 a1 a2 : Word} {i : Instr} (h : decode cmd a0 a1 a2 = .ok i) :
    i.command = cmd := by
  obtain ⟨-, hopc, htgt, hrsvd, -⟩ := decode_ok h
  rw [Instr.command, htgt, commandWord_of_fields hopc hrsvd]

/-- Settles O2, by the fields that a transaction that decodes has. -/
theorem decodedWordsAreTheEncoding : Obligations.DecodedWordsAreTheEncoding := by
  unfold Obligations.DecodedWordsAreTheEncoding
  intro cmd a0 a1 a2 i h
  obtain ⟨-, -, -, -, hoperands, -⟩ := decode_ok h
  exact ⟨command_of_decode h, by rw [operandCount_of_decode h, hoperands]⟩

/-! ### The opcode a command word selects -/

theorem ofCode_eq_some_iff {b : BitVec 8} {o : Opcode} : Opcode.ofCode b = some o ↔ o.code = b :=
  ⟨code_of_ofCode, fun h => h ▸ ofCode_code o⟩

/-- `OPC` as a number (R81). -/
theorem code_eq_cmdOpc_iff {cmd : Word} {o : Opcode} : o.code = cmdOpc cmd ↔ cmd.toNat % 256 = o.code.toNat := by
  rw [← BitVec.toNat_inj, cmdOpc_toNat, eq_comm]

/-- R95 items 3, 6 and 7 on the words alone: what a known opcode still asks of its target and of `A0`. -/
def FieldsLegal (o : Opcode) (tgt : BitVec 8) (a0 : Word) : Prop :=
  (o = .encode → tgt = 0) ∧ (o = .spkInit → a0.toNat / 512 = 0) ∧ (o = .spkSetWave → a0.toNat / 256 = 0)

/-- SPK_INIT's `A0` as the numbers R91 and R95 read. -/
theorem initWord_mod (p : PinId) (aff : Bool) :
    (initWord p aff).toNat % 256 = p.toNat ∧ (initWord p aff).toNat / 512 = 0 := by
  rw [initWord_toNat]
  have := p.isLt
  cases aff <;> simp <;> omega

/-- SPK_SET_WAVE's `A0` as the numbers R92 and R95 read. -/
theorem waveWord_mod (w : BitVec 8) :
    (w.setWidth 32).toNat % 256 = w.toNat ∧ (w.setWidth 32).toNat / 256 = 0 := by
  rw [BitVec.toNat_setWidth]
  have := w.isLt
  omega

/-- An operation's own words meet the conditions. -/
theorem fieldsLegal_of_decode {cmd a0 a1 a2 : Word} {i : Instr} (h : decode cmd a0 a1 a2 = .ok i) :
    FieldsLegal i.opcode (cmdTgt cmd) a0 := by
  obtain ⟨-, -, htgt, -, hoperands, -⟩ := decode_ok h
  refine ⟨fun ho => ?encode, fun ho => ?init, fun ho => ?wave⟩ <;> cases i <;> cases ho
  case encode => exact htgt.symm
  case init v p aff fq vol =>
    have ha0 : initWord p aff = a0 := (List.cons.inj hoperands).1
    rw [← ha0]
    exact (initWord_mod p aff).2
  case wave v w =>
    have ha0 : w.setWidth 32 = a0 := (List.cons.inj hoperands).1
    rw [← ha0]
    exact (waveWord_mod w).2

/-- The conditions are all a known opcode asks. -/
theorem decodeAs_of_fieldsLegal {o : Opcode} {tgt : BitVec 8} {a0 : Word} (h : FieldsLegal o tgt a0)
    (a1 a2 : Word) : ∃ i, decodeAs o tgt a0 a1 a2 = .ok i ∧ i.opcode = o := by
  obtain ⟨htgt, hinit, hwave⟩ := h
  cases o with
  | encode => exact ⟨_, if_pos (htgt rfl), rfl⟩
  | spkInit => exact ⟨_, if_pos ((extract_high_eq_zero a0 rfl).2 (hinit rfl)), rfl⟩
  | spkSetWave => exact ⟨_, if_pos ((extract_high_eq_zero a0 rfl).2 (hwave rfl)), rfl⟩
  | _ => exact ⟨_, rfl, rfl⟩

/-- R94, R95 items 1 to 3, 6 and 7, on the fields of the words. -/
theorem exists_decode_iff (cmd a0 a1 a2 : Word) (o : Opcode) :
    (∃ i, decode cmd a0 a1 a2 = .ok i ∧ i.opcode = o) ↔
      o.code = cmdOpc cmd ∧ cmdRsvd cmd = 0 ∧ FieldsLegal o (cmdTgt cmd) a0 := by
  constructor
  · rintro ⟨i, h, rfl⟩
    obtain ⟨-, hopc, -, hrsvd, -⟩ := decode_ok h
    exact ⟨hopc, hrsvd, fieldsLegal_of_decode h⟩
  · rintro ⟨hopc, hrsvd, hfields⟩
    have hdecode : decode cmd a0 a1 a2 = decodeAs o (cmdTgt cmd) a0 a1 a2 := by
      simp only [decode, ofCode_eq_some_iff.2 hopc, if_pos hrsvd]
    rw [hdecode]
    exact decodeAs_of_fieldsLegal hfields a1 a2

/-- Settles O3: the conditions on the fields, read off the words as numbers. -/
theorem commandWordSelectsOpcode : Obligations.CommandWordSelectsOpcode := by
  unfold Obligations.CommandWordSelectsOpcode
  intro cmd a0 a1 a2 o
  rw [exists_decode_iff, code_eq_cmdOpc_iff, cmdRsvd_eq_zero_iff]
  refine and_congr_right fun _ => and_congr_right fun hrsvd => and_congr_left fun _ => imp_congr_right fun _ => ?_
  rw [← BitVec.toNat_inj, cmdTgt_toNat]
  change cmd.toNat / 256 % 256 = 0 ↔ _
  omega

/-- Settles O4, by evaluating the decoder on the eight words. -/
theorem writtenOutWordsDecode : Obligations.WrittenOutWordsDecode := by
  unfold Obligations.WrittenOutWordsDecode
  decide

/-! ### Assembling raw values (R98) -/

namespace Machine

/-- The literal that writes a word as its raw value. -/
abbrev Literal.ofWord (w : Word) : Literal := .raw false w.toNat

theorem ofWord_word (pos : Position) (w : Word) : (Literal.ofWord w).word pos = some w := by
  have := w.isLt
  simp [Literal.word, valueWord, this]

theorem targetValue_raw (t : BitVec 8) : targetValue (.raw false t.toNat) = some t := by
  have := t.isLt
  simp [targetValue, this]

/-- Raw values stand for themselves in every position. -/
theorem literalWords_ofWord (ps : List Position) (ws : List Word) (h : ps.length = ws.length) :
    literalWords ps (ws.map Literal.ofWord) = some ws := by
  induction ps generalizing ws with
  | nil => cases ws with
    | nil => rfl
    | cons w ws => cases h
  | cons pos ps ih => cases ws with
    | nil => cases h
    | cons w ws => simp [literalWords, ofWord_word, ih ws (Nat.succ.inj h)]

theorem opcodePositions_length (o : Opcode) : (opcodePositions o).length = o.format.operandCount := by
  cases o <;> rfl

theorem literalWords_operands (i : Instr) :
    literalWords (opcodePositions i.opcode) (i.operands.map Literal.ofWord) = some i.operands :=
  literalWords_ofWord _ _ (by rw [opcodePositions_length, operands_length])

theorem assembleOpcode_encode (ls : List Literal) :
    assembleOpcode .encode ls =
      (literalWords (opcodePositions .encode) ls).map fun ws => commandWord .encode 0 :: ws := rfl

/-- Every opcode but ENCODE writes its target first. -/
theorem assembleOpcode_of_ne {o : Opcode} (h : o ≠ .encode) {t : Literal} {tgt : BitVec 8} {ls : List Literal}
    {ws : List Word} (ht : targetValue t = some tgt) (hls : literalWords (opcodePositions o) ls = some ws) :
    assembleOpcode o (t :: ls) = some (commandWord o tgt :: ws) := by
  unfold assembleOpcode
  split
  case h_1 => exact absurd rfl h
  case h_2 heq =>
    obtain ⟨rfl, rfl⟩ := List.cons.inj heq
    simp only [ht, hls]
  case h_3 heq => cases heq

theorem target_of_encode {i : Instr} (h : i.opcode = .encode) : i.target = 0 := by
  cases i <;> cases h
  rfl

/-- Settles O13, by the raw values of the target and of each operand word. -/
theorem assembledOperationIsItsEncoding : Obligations.AssembledOperationIsItsEncoding := by
  unfold Obligations.AssembledOperationIsItsEncoding
  intro i target
  have hwords := literalWords_operands i
  by_cases h : i.opcode = .encode
  case pos =>
    have htarget : target = [] := if_pos h
    rw [htarget, List.nil_append]
    rw [h] at hwords ⊢
    rw [assembleOpcode_encode, hwords, encode, Instr.command, h, target_of_encode h]
    rfl
  case neg =>
    have htarget : target = [.raw false i.target.toNat] := if_neg h
    rw [htarget]
    exact assembleOpcode_of_ne h (targetValue_raw i.target) hwords

end Machine

end Sys2Proof
end

section
/-! PROOF. The step and the ILLEGAL transactions (R13, R80, R95, R96, R250): the words that do not decode and the
operations refused are together the eight conditions of R95, a refused operation only answers, and no other
operation answers ILLEGAL. -/

namespace Sys2Proof.Machine

/-! ### What a step executes -/

theorem step_of_decode_ok {s : State} {t : Transaction} {rest : List Transaction} {i : Instr}
    (hc : configLegal s.cfg = true) (hi : s.inbox = t :: rest) (hd : decode t.cmd t.a0 t.a1 t.a2 = .ok i) :
    step s = exec i (s.accept t rest) := by
  simp only [step, hc, hi, if_true, accept_fetched, hd]

theorem step_of_decode_error {s : State} {t : Transaction} {rest : List Transaction} {e : DecodeError}
    (hc : configLegal s.cfg = true) (hi : s.inbox = t :: rest) (hd : decode t.cmd t.a0 t.a1 t.a2 = .error e) :
    step s = .next (s.accept t rest).illegal := by
  simp only [step, hc, hi, if_true, accept_fetched, hd]

/-- Settles O5: the state the port sets up is the one that took the transaction. -/
theorem stepRunsDecodedInstruction : Obligations.StepRunsDecodedInstruction := by
  unfold Obligations.StepRunsDecodedInstruction
  intro s t rest i hc hi hd
  exact ⟨s.accept t rest, step_of_decode_ok hc hi hd, rfl, rfl, rfl, fun _ => rfl, fun _ => rfl,
    rfl, rfl, rfl, rfl, rfl, rfl, rfl, rfl⟩

/-- Settles O9, by the step's own case of an empty port. -/
theorem idlePortChangesNothing : Obligations.IdlePortChangesNothing := by
  unfold Obligations.IdlePortChangesNothing
  intro s hc hi
  simp only [step, hc, hi, if_true]

/-! ### The configurations refused -/

theorem configLegal_iff (c : Config) :
    configLegal c = true ↔ (1 ≤ c.sysclkHz ∧ c.sysclkHz ≤ 2 ^ 32 - 1) ∧ c.FormatsLegal ∧
      (1 ≤ c.nPins ∧ c.nPins ≤ 256) ∧ (1 ≤ c.nSlots ∧ c.nSlots ≤ 256) ∧
      (1 ≤ c.waves.length ∧ c.waves.length ≤ 256) ∧ c.defaultWave < c.waves.length ∧
      (∀ w ∈ c.waves, waveLegal w = true) ∧ c.carrierHz * 2 ^ c.freqFB ≤ 2 ^ 31 - 1 := by
  simp only [configLegal, Bool.and_eq_true, decide_eq_true_eq, List.all_eq_true, and_assoc]

/-- Settles O10: each disjunct contradicts one range, format or constraint. -/
theorem illegalConfigurationIsRefused : Obligations.IllegalConfigurationIsRefused := by
  unfold Obligations.IllegalConfigurationIsRefused
  intro s hbroken
  have hc : configLegal s.cfg = false := by
    by_contra hlegal
    obtain ⟨hclk, ⟨hfreq, hduty, hdiv⟩, hpins, hslots, hwaves, hdefault, htables, hcarrier⟩ :=
      (configLegal_iff s.cfg).1 (Bool.not_eq_false _ ▸ hlegal)
    have hsizes : ¬∃ bytes, Wave.table bytes ∈ s.cfg.waves ∧ ∀ k ≤ 8, bytes.length ≠ 2 ^ k := by
      rintro ⟨bytes, hmem, hsize⟩
      obtain ⟨k, hk, hlength⟩ := (tableSizeLegal_iff bytes.length).1 (htables _ hmem)
      exact hsize k hk hlength
    rw [eq_false hsizes, false_or] at hbroken
    omega
  simp only [step, hc, Bool.false_eq_true, if_false]

/-! ### Which operations are refused -/

/-- R95 item 8 for an operation: its slot is not constructed, or cannot be by SPK_INIT. -/
def SlotRefused (s : State) : Instr → Prop
  | .spkInit v _ _ fq _ => (s.slot v).valid = true ∨ fq.toInt ≤ 0
  | .spkSetFreq v _ | .spkSetVol v _ | .spkSetWave v _ | .spkPlay v _ | .spkStop v
  | .spkGetFreq v | .spkGetVol v | .spkIsPlaying v | .evTick v => (s.slot v).valid = false
  | .encode _ _ | .start _ _ _ _ | .retune _ _ _ | .chStop _ | .evAlarm _ => False

/-- R95 items 4 to 8 for an operation in a state. -/
def Refused (s : State) (i : Instr) : Prop := i.wf s.cfg = false ∨ SlotRefused s i

theorem refused_accept (s : State) (t : Transaction) (rest : List Transaction) (i : Instr) :
    Refused (s.accept t rest) i ↔ Refused s i := by
  cases i <;> exact Iff.rfl

/-- Item 4 is the check of the pin. -/
theorem checkPin_of_refused {p : PinId} {s : State} (h : decide (p.toNat < s.cfg.nPins) = false ∨ False)
    (k : Result) : checkPin p s k = .next s.illegal :=
  checkPin_of_le (by simpa using h) k

/-- Items 5 and 8 are the check of the slot. -/
theorem checkSlot_of_refused {v : SlotId} {s : State}
    (h : decide (v.toNat < s.cfg.nSlots) = false ∨ (s.slot v).valid = false) (k : Result) :
    checkSlot v s k = .next s.illegal := by
  refine checkSlot_of_not (fun ⟨hv, hvalid⟩ => ?_) k
  rcases h with h | h
  · exact of_decide_eq_false h hv
  · rw [hvalid] at h; cases h

theorem execSpkInit_of_refused {v : SlotId} {p : PinId} {aff : Bool} {fq vol : Word} {s : State}
    (h : Refused s (.spkInit v p aff fq vol)) : execSpkInit v p aff fq vol s = .next s.illegal := by
  refine if_neg fun ⟨hv, hp, hvalid, hfq⟩ => ?_
  rcases h with h | h | h
  · simp [Instr.wf, hv, hp] at h
  · rw [hvalid] at h; cases h
  · exact absurd hfq (not_lt.2 h)

/-- The index of SPK_SET_WAVE is checked in the slot (R95 item 7). -/
theorem execSpkSetWave_of_refused {v : SlotId} {w : BitVec 8} {s : State}
    (h : Refused s (.spkSetWave v w)) : execSpkSetWave v w s = .next s.illegal := by
  by_cases hw : w.toNat < s.cfg.waves.length
  case neg =>
    unfold execSpkSetWave checkSlot
    simp only [hw, if_false, ite_self]
  case pos => exact checkSlot_of_refused (by simpa [Refused, SlotRefused, Instr.wf, hw] using h) _

/-- R96: a refused operation only answers. -/
theorem exec_of_refused {i : Instr} {s : State} (h : Refused s i) : exec i s = .next s.illegal := by
  cases i with
  | encode fq duty => rcases h with h | h <;> cases h
  | start p fq duty dur => exact checkPin_of_refused h _
  | retune p fq duty => exact checkPin_of_refused h _
  | chStop p => exact checkPin_of_refused h _
  | spkInit v p aff fq vol => exact execSpkInit_of_refused h
  | spkSetFreq v fq => exact checkSlot_of_refused h _
  | spkSetVol v vol => exact checkSlot_of_refused h _
  | spkSetWave v w => exact execSpkSetWave_of_refused h
  | spkPlay v dur => exact checkSlot_of_refused h _
  | spkStop v => exact checkSlot_of_refused h _
  | spkGetFreq v => exact checkSlot_of_refused h _
  | spkGetVol v => exact checkSlot_of_refused h _
  | spkIsPlaying v => exact checkSlot_of_refused h _
  | evTick v => exact checkSlot_of_refused h _
  | evAlarm p => exact checkPin_of_refused h _

/-- Settles O8: the fields out of range are among the conditions that refuse. -/
theorem illFormedOperationIsIllegal : Obligations.IllFormedOperationIsIllegal := by
  unfold Obligations.IllFormedOperationIsIllegal
  exact fun i s h => ⟨s.illegal, exec_of_refused (.inl h), ⟨rfl, rfl, rfl⟩, .respond s .illegal 0 0⟩

/-! ### The status of every other operation -/

/-- Neither ILLEGAL nor the pack overflow that R131 excludes. -/
def Status.Ordinary (st : Status) : Prop := st ≠ .illegal ∧ st ≠ .rejPackOverflow

theorem Status.ordinary_ok : Status.ok.Ordinary := ⟨nofun, nofun⟩
theorem Status.ordinary_noop : Status.noop.Ordinary := ⟨nofun, nofun⟩
theorem Status.ordinary_noChannel : Status.noChannel.Ordinary := ⟨nofun, nofun⟩
theorem Status.ordinary_notBound : Status.notBound.Ordinary := ⟨nofun, nofun⟩

theorem encodeFD_ordinary (c : Config) (fq duty : Int) : (encodeFD c fq duty).st.Ordinary := by
  rw [encodeFD_st]
  unfold encoderStatus
  split_ifs <;> exact ⟨nofun, nofun⟩

theorem chStopOp_ordinary (p : PinId) (s : State) : (chStopOp p s).2.Ordinary := by
  rcases chStopOp_cases p s with ⟨-, h⟩ | ⟨-, h, -⟩ <;> rw [h]
  · exact Status.ordinary_notBound
  · exact Status.ordinary_ok

theorem startOp_ordinary (p : PinId) (fq duty : Int) (dur : Word) (s : State) :
    (startOp p fq duty dur s).2.Ordinary := by
  rcases startOp_cases p fq duty dur s with ⟨-, h⟩ | ⟨-, -, h⟩ | ⟨-, -, -, -, h⟩ | ⟨-, -, -, h⟩ <;>
    rw [h]
  · exact chStopOp_ordinary p s
  · exact encodeFD_ordinary ..
  · exact Status.ordinary_noChannel
  · exact Status.ordinary_ok

theorem retuneOp_ordinary (p : PinId) (fq duty : Int) (s : State) : (retuneOp p fq duty s).2.Ordinary := by
  rcases retuneOp_cases p fq duty s with ⟨-, h⟩ | ⟨-, -, h⟩ | ⟨-, -, h⟩ <;> rw [h]
  · exact Status.ordinary_notBound
  · exact encodeFD_ordinary ..
  · exact Status.ordinary_ok

theorem alarmOp_ordinary (p : PinId) (s : State) : (alarmOp p s).2.Ordinary := by
  rcases alarmOp_cases p s with ⟨-, h⟩ | ⟨-, h⟩ <;> rw [h]
  · exact Status.ordinary_noop
  · exact chStopOp_ordinary ..

theorem spkStopOp_ordinary (v : SlotId) (s : State) : (spkStopOp v s).2.1.Ordinary := by
  rcases spkStopOp_cases v s with ⟨-, h⟩ | ⟨-, h⟩ <;> rw [h]
  · exact Status.ordinary_noop
  · exact Status.ordinary_ok

/-- A next state whose status is an ordinary one. -/
def AnswersOrdinary (k : Result) : Prop := ∃ t st, k = .next t ∧ t.status = Status.word st ∧ st.Ordinary

theorem AnswersOrdinary.respond (s : State) {st : Status} (h : st.Ordinary) (x y : Word) :
    AnswersOrdinary (.next (s.respond st x y)) := ⟨_, st, rfl, rfl, h⟩

theorem AnswersOrdinary.answer {r : State × Status} (h : r.2.Ordinary) : AnswersOrdinary (answer r) :=
  .respond r.1 h 0 0

theorem AnswersOrdinary.checkPin {p : PinId} {s : State} {k : Result} (h : AnswersOrdinary k)
    (hp : ¬(decide (p.toNat < s.cfg.nPins) = false ∨ False)) : AnswersOrdinary (checkPin p s k) := by
  rwa [checkPin_of_lt (by simpa using hp)]

theorem AnswersOrdinary.checkSlot {v : SlotId} {s : State} {k : Result} (h : AnswersOrdinary k)
    (hv : ¬(decide (v.toNat < s.cfg.nSlots) = false ∨ (s.slot v).valid = false)) :
    AnswersOrdinary (checkSlot v s k) := by
  rw [not_or, Bool.not_eq_false, Bool.not_eq_false, decide_eq_true_eq] at hv
  rwa [checkSlot_of_valid hv.1 hv.2]

theorem execSpkInit_ordinary {v : SlotId} {p : PinId} {aff : Bool} {fq vol : Word} {s : State}
    (h : ¬Refused s (.spkInit v p aff fq vol)) : AnswersOrdinary (execSpkInit v p aff fq vol s) := by
  have hlegal : v.toNat < s.cfg.nSlots ∧ p.toNat < s.cfg.nPins ∧ (s.slot v).valid = false ∧ 0 < sint32 fq := by
    simpa [Refused, Instr.wf, SlotRefused, sint32, and_assoc] using h
  rw [execSpkInit, if_pos hlegal]
  exact .respond _ Status.ordinary_ok 0 0

theorem execSpkSetWave_ordinary {v : SlotId} {w : BitVec 8} {s : State} (h : ¬Refused s (.spkSetWave v w)) :
    AnswersOrdinary (execSpkSetWave v w s) := by
  obtain ⟨⟨hv, hw⟩, hvalid⟩ : (v.toNat < s.cfg.nSlots ∧ w.toNat < s.cfg.waves.length) ∧
      (s.slot v).valid = true := by
    simpa [Refused, Instr.wf, SlotRefused] using h
  rw [execSpkSetWave, checkSlot_of_valid hv hvalid]
  dsimp only
  rw [if_pos hw]
  split <;> exact .answer Status.ordinary_ok

/-- The codes of R93 but `0x06`, which no operation answers (R131). -/
abbrev answeredCodes : List Nat := [0x00, 0x01, 0x02, 0x03, 0x04, 0x05, 0x07, 0x08, 0x0F]

theorem Status.Ordinary.code_mem {st : Status} (h : st.Ordinary) : st.word.toNat ∈ answeredCodes := by
  cases st with
  | rejPackOverflow => exact absurd rfl h.2
  | _ => decide

/-- No other status has the code of ILLEGAL (R93). -/
theorem Status.Ordinary.word_ne {st : Status} (h : st.Ordinary) : st.word ≠ 0x0000000F := by
  cases st with
  | illegal => exact absurd rfl h.1
  | _ => decide

/-- R93: an operation that is not refused ends with an ordinary status. -/
theorem exec_ordinary {i : Instr} {s : State} (h : ¬Refused s i) : AnswersOrdinary (exec i s) := by
  cases i with
  | encode fq duty => exact .respond s (encodeFD_ordinary ..) _ _
  | start p fq duty dur => exact .checkPin (.answer (startOp_ordinary ..)) h
  | retune p fq duty => exact .checkPin (.answer (retuneOp_ordinary ..)) h
  | chStop p => exact .checkPin (.answer (chStopOp_ordinary ..)) h
  | spkInit v p aff fq vol => exact execSpkInit_ordinary h
  | spkSetFreq v fq =>
    refine .checkSlot ?_ h
    dsimp only; split
    · exact .answer Status.ordinary_noop
    · exact .answer Status.ordinary_ok
  | spkSetVol v vol =>
    refine .checkSlot ?_ h
    split
    · exact .answer Status.ordinary_noop
    · exact .answer Status.ordinary_ok
  | spkSetWave v w => exact execSpkSetWave_ordinary h
  | spkPlay v dur =>
    refine .checkSlot ?_ h
    dsimp only; split
    · exact .answer Status.ordinary_ok
    · exact .respond _ Status.ordinary_ok _ _
  | spkStop v => exact .checkSlot (.respond _ (spkStopOp_ordinary v s) _ _) h
  | spkGetFreq v => exact .checkSlot (.respond _ Status.ordinary_ok _ _) h
  | spkGetVol v => exact .checkSlot (.respond _ Status.ordinary_ok _ _) h
  | spkIsPlaying v => exact .checkSlot (.respond _ Status.ordinary_ok _ _) h
  | evTick v =>
    refine .checkSlot ?_ h
    dsimp only; split
    · split
      · exact .respond _ (spkStopOp_ordinary v s) _ _
      · exact .respond _ Status.ordinary_ok _ _
    · exact .answer Status.ordinary_noop
  | evAlarm p => exact .checkPin (.answer (alarmOp_ordinary ..)) h

/-- Settles O11: a refused operation answers ILLEGAL, any other an ordinary status. -/
theorem everyOperationAnswersWithAStatus : Obligations.EveryOperationAnswersWithAStatus := by
  unfold Obligations.EveryOperationAnswersWithAStatus
  have answers (i : Instr) (s : State) : ∃ t, exec i s = .next t ∧ t.status.toNat ∈ answeredCodes := by
    by_cases h : Refused s i
    case pos => exact ⟨_, exec_of_refused h, show Status.illegal.word.toNat ∈ _ by decide⟩
    case neg =>
      obtain ⟨t, st, ht, hstatus, hst⟩ := exec_ordinary h
      exact ⟨t, ht, hstatus ▸ hst.code_mem⟩
  refine ⟨answers, fun s hc => ?_⟩
  rcases step_cases s with ⟨hillegal, -⟩ | ⟨-, -, h⟩ | ⟨t, rest, -, -, ⟨e, -, h⟩ | ⟨i, -, h⟩⟩
  · rw [hc] at hillegal; cases hillegal
  · exact ⟨_, h⟩
  · exact ⟨_, h⟩
  · obtain ⟨u, hu, -⟩ := answers i (s.accept t rest)
    exact ⟨u, h.trans hu⟩

/-! ### The eight conditions of R95 -/

theorem mem_opcodeNumbers_iff (n : Nat) : n ∈ opcodeNumbers ↔ ∃ o : Opcode, n = o.code.toNat := by
  have hmap : opcodeNumbers = Opcode.all.map fun o => o.code.toNat := by decide
  have hall (o : Opcode) : o ∈ Opcode.all := by cases o <;> decide
  simp only [hmap, List.mem_map, hall, true_and, eq_comm]

/-- Words that decode to nothing break one of items 1 to 3, 6 and 7. -/
theorem illegalTransaction_of_decode_error {s : State} {t : Transaction} {e : DecodeError}
    (h : decode t.cmd t.a0 t.a1 t.a2 = .error e) : IllegalTransaction s t := by
  by_contra hlegal
  simp only [IllegalTransaction, not_or] at hlegal
  obtain ⟨hopc, hrsvd, hencode, -, -, hinit, hwave, -⟩ := hlegal
  obtain ⟨o, ho⟩ := (mem_opcodeNumbers_iff _).1 (not_not.1 hopc)
  rw [not_not] at hrsvd
  suffices hfields : FieldsLegal o (cmdTgt t.cmd) t.a0 by
    obtain ⟨i, hi, -⟩ := (exists_decode_iff t.cmd t.a0 t.a1 t.a2 o).2
      ⟨code_eq_cmdOpc_iff.2 ho, (cmdRsvd_eq_zero_iff _).2 hrsvd, hfields⟩
    rw [h] at hi; cases hi
  refine ⟨?encode, ?init, ?wave⟩
  case encode =>
    rintro rfl
    apply BitVec.eq_of_toNat_eq
    rw [cmdTgt_toNat]
    by_contra htgt
    exact hencode ⟨ho, htgt⟩
  case init => rintro rfl; by_contra ha0; exact hinit ⟨ho, .inl ha0⟩
  case wave => rintro rfl; by_contra ha0; exact hwave ⟨ho, .inl ha0⟩

/-- The fields of a transaction that decodes, as the numbers R95 reads. -/
theorem numbers_of_decode {t : Transaction} {i : Instr} (h : decode t.cmd t.a0 t.a1 t.a2 = .ok i) :
    t.cmd.toNat % 256 = i.opcode.code.toNat ∧ t.cmd.toNat / 256 % 256 = i.target.toNat ∧
      t.cmd.toNat / 65536 = 0 := by
  obtain ⟨-, hopc, htgt, hrsvd, -⟩ := decode_ok h
  exact ⟨code_eq_cmdOpc_iff.1 hopc, by rw [htgt, cmdTgt_toNat], (cmdRsvd_eq_zero_iff _).1 hrsvd⟩

/-- Of a transaction that decodes, the conditions left are those that refuse its operation. -/
theorem illegalTransaction_iff_of_decode_ok {s : State} {t : Transaction} {i : Instr}
    (h : decode t.cmd t.a0 t.a1 t.a2 = .ok i) : IllegalTransaction s t ↔ Refused s i := by
  obtain ⟨hopc, htgt, hrsvd⟩ := numbers_of_decode h
  obtain ⟨-, -, -, -, hoperands, -⟩ := decode_ok h
  dsimp only [IllegalTransaction]
  rw [hopc, htgt, hrsvd, BitVec.ofNat_toNat, BitVec.setWidth_eq]
  cases i with
  | spkInit v p aff fq vol =>
    obtain ⟨ha0, ha1, -⟩ : initWord p aff = t.a0 ∧ fq = t.a1 ∧ vol = t.a2 := by
      simpa [Instr.operands, Instr.opcode, Opcode.format, Format.operandCount] using hoperands
    obtain ⟨hpin, hrsvd0⟩ := initWord_mod p aff
    rw [← ha0, ← ha1, hpin, hrsvd0]
    simp [Refused, SlotRefused, Instr.wf, Instr.opcode, Opcode.code, opcodeNumbers, Instr.target,
      imp_iff_not_or, or_assoc]
  | spkSetWave v w =>
    have ha0 : w.setWidth 32 = t.a0 := (List.cons.inj hoperands).1
    obtain ⟨hwave, hrsvd0⟩ := waveWord_mod w
    rw [← ha0, hwave, hrsvd0]
    simp [Refused, SlotRefused, Instr.wf, Instr.opcode, Opcode.code, opcodeNumbers, Instr.target,
      imp_iff_not_or, or_assoc]
  | _ => simp [Refused, SlotRefused, Instr.wf, Instr.opcode, Opcode.code, opcodeNumbers, Instr.target]

/-- Settles O6: the words do not decode, or the operation is refused. -/
theorem illegalTransactionOnlyAnswers : Obligations.IllegalTransactionOnlyAnswers := by
  unfold Obligations.IllegalTransactionOnlyAnswers
  intro s t rest hc hi hillegal
  have hstep : step s = .next (s.accept t rest).illegal := by
    cases hd : decode t.cmd t.a0 t.a1 t.a2 with
    | error e => exact step_of_decode_error hc hi hd
    | ok i =>
      rw [step_of_decode_ok hc hi hd]
      exact exec_of_refused ((refused_accept ..).2 ((illegalTransaction_iff_of_decode_ok hd).1 hillegal))
  exact ⟨_, hstep, rfl, rfl, rfl, rfl, fun _ => rfl, fun _ => rfl, rfl, rfl, rfl, rfl, rfl, rfl, rfl⟩

/-- Settles O7: an operation that is not refused answers another status. -/
theorem illegalStatusExactlyWhenIllegal : Obligations.IllegalStatusExactlyWhenIllegal := by
  unfold Obligations.IllegalStatusExactlyWhenIllegal
  intro s u t rest hc hi hstep
  refine ⟨fun hstatus => ?_, fun hillegal => ?_⟩
  case refine_1 =>
    cases hd : decode t.cmd t.a0 t.a1 t.a2 with
    | error e => exact illegalTransaction_of_decode_error hd
    | ok i =>
      rw [illegalTransaction_iff_of_decode_ok hd]
      by_contra hrefused
      rw [step_of_decode_ok hc hi hd] at hstep
      obtain ⟨u', st, hu, hst, hordinary⟩ := exec_ordinary (mt (refused_accept s t rest i).1 hrefused)
      obtain rfl : u = u' := Host.Outcome.next.inj (hstep.symm.trans hu)
      exact hordinary.word_ne (hst.symm.trans hstatus)
  case refine_2 =>
    obtain ⟨u', hu, hstatus, -⟩ := illegalTransactionOnlyAnswers s t rest hc hi hillegal
    obtain rfl : u = u' := Host.Outcome.next.inj (hstep.symm.trans hu)
    exact hstatus

end Sys2Proof.Machine
end

section
/-! PROOF. The ENCODE command (R120 to R128): the bounds that each step's rounding means determine the numbers the
encoder computes, and its status and triple are the answer. -/

namespace Sys2Proof.Machine

/-- ENCODE answers with Encode's triple and changes nothing (R120). -/
theorem exec_encode (fq duty : Word) (s : State) :
    exec (.encode fq duty) s =
      .next (s.respond (encodeFD s.cfg fq.toInt duty.toInt).st
        ((encodeFD s.cfg fq.toInt duty.toInt).cd.setWidth 32) (encodeFD s.cfg fq.toInt duty.toInt).w) := rfl

/-- A rejection's answer, from the status alone (R130, R133). -/
theorem responds_of_rejected {s : State} {fq duty : Int} {st : Status} (h : encoderStatus s.cfg fq = st)
    (hne : st ≠ .ok) :
    Responds st 0 0 (s.respond (encodeFD s.cfg fq duty).st ((encodeFD s.cfg fq duty).cd.setWidth 32)
      (encodeFD s.cfg fq duty).w) := by
  rw [encodeFD_eq, if_neg (h ▸ hne), h]
  exact ⟨rfl, rfl, rfl⟩

/-- `cdiv a b` is the one number whose product with `b` reaches `a` by less than `b`. -/
theorem cdiv_eq_of_bounds {a b q : Nat} (hb : 0 < b) (hle : a ≤ q * b) (hlt : q * b < a + b) :
    cdiv a b = q := by
  refine le_antisymm ((cdiv_le_iff hb).2 (by rwa [Nat.mul_comm])) ?_
  have hreach : a ≤ b * cdiv a b := (cdiv_le_iff hb).1 le_rfl
  by_contra hgt
  have := Nat.mul_le_mul_left b (show cdiv a b + 1 ≤ q by omega)
  nlinarith

/-- R122: the clamped duty, by its three ranges. -/
theorem clampUnit_eq_of_ranges {c : Config} (hc : c.FormatsLegal) {x : Int} {d : Nat}
    (h : x < 0 ∧ d = 0 ∨ 0 ≤ x ∧ x ≤ 65536 ∧ x = d ∨ 65536 < x ∧ d = 65536) : clampUnit c x = d := by
  unfold clampUnit clamp
  rw [unit_of_formatsLegal hc]
  split_ifs <;> omega

/-- R123: `REQ`, by its rounding bounds. -/
theorem requiredCycles_eq_of_bounds {c : Config} (hc : c.FormatsLegal) {f req : Nat} (hf : 0 < f)
    (hle : 2 * f * req ≤ 2 * (c.sysclkHz * 256) + f) (hlt : 2 * (c.sysclkHz * 256) + f < 2 * f * (req + 1)) :
    requiredCycles c f = req := by
  rw [requiredCycles, hc.1]
  exact (rdiv_eq_iff hf).2 ⟨hle, hlt⟩

/-- R124: `CD`, unslowed or rounded up. -/
theorem clockDivisor_eq_of_bounds {c : Config} (hc : c.FormatsLegal) {req cd : Nat}
    (h : req ≤ c.limit ∧ cd = 256 ∨
      c.limit < req ∧ req * 256 ≤ cd * c.limit ∧ cd * c.limit < req * 256 + c.limit) :
    clockDivisor c req = cd := by
  rcases h with ⟨hreq, rfl⟩ | ⟨hreq, hle, hlt⟩
  · rw [clockDivisor_of_le hreq, hc.2.2]; rfl
  · rw [clockDivisor_of_lt hreq, hc.2.2]
    exact cdiv_eq_of_bounds (limit_pos c) hle hlt

/-- R125: `TOTAL`, by its rounding bounds. -/
theorem totalCycles_eq_of_bounds {c : Config} (hc : c.FormatsLegal) {f cd total : Nat} (hpos : 0 < cd * f)
    (hle : 2 * (cd * f) * total ≤ 2 * (c.sysclkHz * 65536) + cd * f)
    (hlt : 2 * (c.sysclkHz * 65536) + cd * f < 2 * (cd * f) * (total + 1)) :
    totalCycles c f cd = total := by
  rw [totalCycles, hc.1, hc.2.2]
  exact (rdiv_eq_iff hpos).2 ⟨hle, hlt⟩

/-- R127: `HIGH`, by the rounding bounds of `X` and the clamp. -/
theorem highPhase_eq_of_bounds {c : Config} (hc : c.FormatsLegal) {var d x : Nat} (hvar : 2 * c.minPhase ≤ var)
    (hle : 2 * 65536 * x ≤ 2 * (var * d) + 65536) (hlt : 2 * (var * d) + 65536 < 2 * 65536 * (x + 1)) :
    highPhase c var d = max c.minPhase (min x (var - c.minPhase)) := by
  have hx : rdiv (var * d) 65536 = x := (rdiv_eq_iff (by omega)).2 ⟨hle, hlt⟩
  rw [highPhase, unit_of_formatsLegal hc, hx, clamp]
  split_ifs <;> omega

/-- Settles O15: the bounds determine `REQ`, `CD`, `TOTAL` and `HIGH`, and each clause is one value of the
status. -/
theorem encodeCommandAnswersItsSteps : Obligations.EncodeCommandAnswersItsSteps := by
  unfold Obligations.EncodeCommandAnswersItsSteps
  intro s fq duty hc
  refine ⟨_, exec_encode fq duty s, .respond s _ _ _, fun hfq => ?nonpos, ?positive⟩
  case nonpos => exact responds_of_rejected (if_pos hfq) nofun
  intro f D REQ CD TOTAL hf hfq hD hREQ hREQ' hCD hTOTAL hTOTAL'
  have fq_pos : 0 < fq.toInt := by omega
  have fq_toNat : fq.toInt.toNat = f := by omega
  have req_eq : requiredCycles s.cfg f = REQ := requiredCycles_eq_of_bounds hc hf hREQ hREQ'
  have cd_eq : encoderDivisor s.cfg fq.toInt = CD := by
    rw [encoderDivisor, fq_toNat, req_eq, clockDivisor_eq_of_bounds hc hCD]
  have cd_pos : 0 < CD := by rw [← cd_eq]; exact clockDivisor_pos ..
  have total_eq : encoderTotal s.cfg fq.toInt = TOTAL := by
    rw [encoderTotal, cd_eq, fq_toNat]
    exact totalCycles_eq_of_bounds hc (Nat.mul_pos cd_pos hf) hTOTAL hTOTAL'
  have max_eq : maxDivisor s.cfg = 16777216 := by rw [maxDivisor, hc.2.2]; rfl
  refine ⟨fun hlow => ?tooLow, fun hcd hhigh => ?tooHigh, fun hcd hover hshort => ?tooShort,
    fun hcd hover hlong VAR X HIGH hVAR hX hX' hHIGH => ?ok⟩
  case tooLow =>
    exact responds_of_rejected ((encoderStatus_eq_tooLow_iff ..).2 ⟨fq_pos, by omega⟩) nofun
  case tooHigh =>
    exact responds_of_rejected ((encoderStatus_eq_tooHigh_iff ..).2 ⟨fq_pos, by omega, by omega⟩) nofun
  case tooShort =>
    exact responds_of_rejected ((encoderStatus_eq_tooShort_iff ..).2 ⟨fq_pos, by omega, by omega, by omega⟩) nofun
  case ok =>
    have hok : encoderStatus s.cfg fq.toInt = .ok :=
      (encoderStatus_eq_ok_iff ..).2 ⟨fq_pos, by omega, by omega, by omega⟩
    have var_eq : encoderTotal s.cfg fq.toInt - s.cfg.overhead = VAR := by omega
    have high_eq : highPhase s.cfg VAR D = HIGH := by
      rw [highPhase_eq_of_bounds hc (by omega) hX hX', hHIGH]
    rw [encodeFD_of_ok _ hok, var_eq, clampUnit_eq_of_ranges hc hD, high_eq, cd_eq]
    refine ⟨rfl, BitVec.eq_of_toNat_eq ?_, rfl⟩
    simp only [State.respond_res0, BitVec.toNat_setWidth, BitVec.toNat_ofNat]
    omega

end Sys2Proof.Machine
end

section
/-! PROOF. The Channel Output Stage (R150 to R160): what START, RETUNE, CH_STOP and EV_ALARM do to their pin's record
and which calls they make. -/

namespace Sys2Proof.Machine

/-! ### The calls and the record of a tone -/

section Frames

variable {p : PinId} {s t : State}

theorem PinFrame.samePort (h : PinFrame p s t) : SamePort s t := h.1

theorem PinFrame.samePinsBut (h : PinFrame p s t) : SamePinsBut p s t := h.2.1

end Frames

/-- The calls of Apply on a channel with record `r` (R153). -/
def tuneCalls (r : PinRec) (e : Encoded) : List Call :=
  (if r.needsDivisor e.cd then [Call.setClockDivisor r.handle e.cd] else []) ++
    [Call.clearBuffer r.handle, Call.pushWord r.handle e.w] ++
    (if r.hwen then [] else [Call.setEnabled r.handle true])

/-- The calls of START on a pin with record `r` once it has a channel (R150, R153, R154). -/
def playCalls (p : PinId) (r : PinRec) (e : Encoded) (dur : Word) : List Call :=
  (if r.alarmPend then [Call.cancelOnce p] else []) ++ tuneCalls r e ++
    (if dur = 0 then [] else [Call.scheduleOnce dur p])

/-- The record START leaves of a pin with record `r` that has a channel (R150, R153, R154). -/
def PinRec.played (r : PinRec) (cd : ClkDiv) (now : Time) (dur : Word) : PinRec :=
  { r with
    hwen := true
    lastcd := cd
    alarmPend := decide (dur ≠ 0)
    alarmAt := if dur = 0 then r.alarmAt else addMs now dur }

/-- START once the pin has a channel (R150): the old alarm goes, the word is applied, the new alarm is set. -/
def playTone (p : PinId) (e : Encoded) (dur : Word) (s : State) : State :=
  scheduleStop p dur (applyWord p e.cd e.w (cancelAlarm p s))

section Tone

variable (p : PinId) (e : Encoded) (dur : Word) (s : State)

theorem applyWord_calls : Calls s (applyWord p e.cd e.w s) (tuneCalls (s.pin p) e) :=
  applyWord_trace p e.cd e.w s

theorem playTone_frame : PinFrame p s (playTone p e dur s) :=
  (cancelAlarm_frame ..).trans ((applyWord_frame ..).trans (scheduleStop_frame ..))

theorem playTone_pin : (playTone p e dur s).pin p = (s.pin p).played e.cd s.env.now dur := by
  have henv : (applyWord p e.cd e.w (cancelAlarm p s)).env = s.env :=
    ((cancelAlarm_frame p s).trans (applyWord_frame ..)).1.2.2.2.2.2
  rw [playTone, scheduleStop_pin, applyWord_pin, cancelAlarm_pin, henv]
  by_cases hdur : dur = 0#32 <;> simp [PinRec.played, uint32_pos_iff, hdur]

theorem playTone_calls : Calls s (playTone p e dur s) (playCalls p (s.pin p) e dur) := by
  rw [Calls, playTone, scheduleStop_trace, applyWord_trace, cancelAlarm_pin, cancelAlarm_trace]
  by_cases hdur : dur = 0#32 <;> simp [playCalls, tuneCalls, PinRec.needsDivisor, uint32_pos_iff, hdur]

theorem cancelAlarm_freeCount : (cancelAlarm p s).freeCount = s.freeCount := by
  unfold cancelAlarm; split <;> rfl

theorem scheduleStop_freeCount : (scheduleStop p dur s).freeCount = s.freeCount := by
  unfold scheduleStop; split <;> rfl

theorem playTone_freeCount : (playTone p e dur s).freeCount = s.freeCount :=
  (scheduleStop_freeCount ..).trans (cancelAlarm_freeCount p s)

end Tone

/-- Pin `p` takes the channel `h` the environment answers with (R152). -/
def takeChannel (p : PinId) (h : Nat) (s : State) : State :=
  (s.emit [.claimChannel p, .setEnabled h false]).setPin p
    { s.pin p with bound := true, handle := h, hwen := false }

/-- START by its five outcomes: the stop of R151, a rejection, a failed claim, a tone on the pin's channel, and a
tone on a claimed one (R150 to R152, R159). -/
theorem startOp_outcomes (p : PinId) (fq duty : Int) (dur : Word) (s : State) :
    let e := encodeFD s.cfg fq duty
    (fq ≤ 0 ∧ startOp p fq duty dur s = chStopOp p s) ∨
    (0 < fq ∧ e.st ≠ .ok ∧ startOp p fq duty dur s = (s, e.st)) ∨
    (0 < fq ∧ e.st = .ok ∧ (s.pin p).bound = false ∧ s.claimAnswer = none ∧
      startOp p fq duty dur s = (s.emit [.claimChannel p], .noChannel)) ∨
    (0 < fq ∧ e.st = .ok ∧ (s.pin p).bound = true ∧ startOp p fq duty dur s = (playTone p e dur s, .ok)) ∨
    (∃ h, 0 < fq ∧ e.st = .ok ∧ (s.pin p).bound = false ∧ s.claimAnswer = some h ∧
      startOp p fq duty dur s = (playTone p e dur (takeChannel p h s), .ok)) := by
  intro e
  rcases startOp_cases p fq duty dur s with hstop | hrej | hfail | ⟨hfq, hok, hhas, hplay⟩
  · exact .inl hstop
  · exact .inr (.inl hrej)
  · exact .inr (.inr (.inl hfail))
  · rcases ensureBound_cases p s with ⟨hb, h⟩ | ⟨-, -, h⟩ | ⟨k, hb, hclaim, h⟩ <;> rw [h] at hplay hhas
    · exact .inr (.inr (.inr (.inl ⟨hfq, hok, hb, hplay⟩)))
    · cases hhas
    · exact .inr (.inr (.inr (.inr ⟨k, hfq, hok, hb, hclaim, hplay⟩)))

section Start

variable {p : PinId} {fq duty : Int} {dur : Word} {s : State}

theorem startOp_of_claim_fails (hfq : 0 < fq) (hok : (encodeFD s.cfg fq duty).st = .ok)
    (hb : (s.pin p).bound = false) (hclaim : s.claimAnswer = none) :
    startOp p fq duty dur s = (s.emit [.claimChannel p], .noChannel) := by
  rcases startOp_outcomes p fq duty dur s with
    ⟨hneg, -⟩ | ⟨-, hrej, -⟩ | ⟨-, -, -, -, h⟩ | ⟨-, -, hb', -⟩ |
    ⟨k, -, -, -, hclaim', -⟩
  · omega
  · exact absurd hok hrej
  · exact h
  · rw [hb] at hb'; cases hb'
  · rw [hclaim] at hclaim'; cases hclaim'

theorem startOp_of_bound (hfq : 0 < fq) (hok : (encodeFD s.cfg fq duty).st = .ok)
    (hb : (s.pin p).bound = true) :
    startOp p fq duty dur s = (playTone p (encodeFD s.cfg fq duty) dur s, .ok) := by
  rcases startOp_outcomes p fq duty dur s with
    ⟨hneg, -⟩ | ⟨-, hrej, -⟩ | ⟨-, -, hb', -⟩ | ⟨-, -, -, h⟩ |
    ⟨k, -, -, hb', -⟩
  · omega
  · exact absurd hok hrej
  · rw [hb] at hb'; cases hb'
  · exact h
  · rw [hb] at hb'; cases hb'

theorem startOp_of_claim {h : Nat} (hfq : 0 < fq) (hok : (encodeFD s.cfg fq duty).st = .ok)
    (hb : (s.pin p).bound = false) (hclaim : s.claimAnswer = some h) :
    startOp p fq duty dur s = (playTone p (encodeFD s.cfg fq duty) dur (takeChannel p h s), .ok) := by
  rcases startOp_outcomes p fq duty dur s with
    ⟨hneg, -⟩ | ⟨-, hrej, -⟩ | ⟨-, -, -, hclaim', -⟩ | ⟨-, -, hb', -⟩ |
    ⟨k, -, -, -, hclaim', heq⟩
  · omega
  · exact absurd hok hrej
  · rw [hclaim] at hclaim'; cases hclaim'
  · rw [hb] at hb'; cases hb'
  · obtain rfl : h = k := Option.some.inj (hclaim.symm.trans hclaim')
    exact heq

end Start

/-! ### Answers -/

section Answers

variable {p : PinId} {s : State} {r : State × Status}

/-- A channel operation of an existing pin answers its status in the state it leaves (R83). -/
theorem checkPin_answer (hp : p.toNat < s.cfg.nPins) :
    checkPin p s (answer r) = .next (r.1.respond r.2 0 0) := checkPin_of_lt hp _

theorem exec_start_of_lt (hp : p.toNat < s.cfg.nPins) (fq duty dur : Word) :
    exec (.start p fq duty dur) s =
      .next ((startOp p fq.toInt duty.toInt dur s).1.respond (startOp p fq.toInt duty.toInt dur s).2 0 0) :=
  checkPin_answer hp

theorem exec_retune_of_lt (hp : p.toNat < s.cfg.nPins) (fq duty : Word) :
    exec (.retune p fq duty) s =
      .next ((retuneOp p fq.toInt duty.toInt s).1.respond (retuneOp p fq.toInt duty.toInt s).2 0 0) :=
  checkPin_answer hp

theorem exec_chStop_of_lt (hp : p.toNat < s.cfg.nPins) :
    exec (.chStop p) s = .next ((chStopOp p s).1.respond (chStopOp p s).2 0 0) :=
  checkPin_answer hp

theorem exec_evAlarm_of_lt (hp : p.toNat < s.cfg.nPins) :
    exec (.evAlarm p) s = .next ((alarmOp p s).1.respond (alarmOp p s).2 0 0) :=
  checkPin_answer hp

end Answers

/-! ### START -/

theorem takeChannel_frame (p : PinId) (h : Nat) (s : State) : PinFrame p s (takeChannel p h s) :=
  .emit_setPin ..

theorem takeChannel_pin (p : PinId) (h : Nat) (s : State) :
    (takeChannel p h s).pin p = { s.pin p with bound := true, handle := h, hwen := false } :=
  State.setPin_pin_self ..

/-- The alarm a tone leaves pending, and when it is due (R154). -/
theorem PinRec.played_alarm (r : PinRec) (cd : ClkDiv) (now : Time) (dur : Word) :
    (dur = 0 → (r.played cd now dur).alarmPend = false ∧ (r.played cd now dur).alarmAt = r.alarmAt) ∧
      (dur ≠ 0 → (r.played cd now dur).alarmPend = true ∧
        (r.played cd now dur).alarmAt = now + dur.setWidth 64) := by
  by_cases hdur : dur = 0#32 <;> simp [PinRec.played, hdur, addMs]

/-- A disabled channel always gets its divisor, and is enabled (R153). -/
theorem tuneCalls_of_disabled {r : PinRec} (h : r.hwen = false) (e : Encoded) :
    tuneCalls r e =
      [.setClockDivisor r.handle e.cd, .clearBuffer r.handle, .pushWord r.handle e.w,
        .setEnabled r.handle true] := by
  simp [tuneCalls, PinRec.needsDivisor, h]

/-- Settles O24: the claim is lawful, and the tone plays on the channel taken. -/
theorem startClaimsAndPlays : Obligations.StartClaimsAndPlays := by
  unfold Obligations.StartClaimsAndPlays
  intro s p fq duty dur h e hp hfq hok hb hclaim hlt hfree hnew
  have hanswer : s.claimAnswer = some h :=
    claimAnswer_eq_some.2 ⟨hclaim, hlt, hfree, holdsHandle_eq_false.2 hnew⟩
  have hexec := exec_start_of_lt hp fq duty dur
  rw [startOp_of_claim hfq hok hb hanswer] at hexec
  have hframe := (takeChannel_frame p h s).trans (playTone_frame p e dur (takeChannel p h s))
  have hpin := playTone_pin p e dur (takeChannel p h s)
  have hcalls := playTone_calls p e dur (takeChannel p h s)
  rw [takeChannel_pin] at hpin hcalls
  obtain ⟨hnone, hsome⟩ := PinRec.played_alarm { s.pin p with bound := true, handle := h, hwen := false }
    e.cd s.env.now dur
  refine ⟨_, hexec, ⟨rfl, rfl, rfl⟩, hframe.samePort, hframe.samePinsBut, hframe.sameSlots,
    playTone_freeCount .., ?_⟩
  rw [State.respond_pin, hpin]
  refine ⟨rfl, rfl, rfl, rfl, hnone, hsome, ?_⟩
  rw [Calls, playCalls, tuneCalls_of_disabled rfl] at hcalls
  rw [Calls, State.respond_trace, hcalls]
  simp [takeChannel]

/-- Where `HWEN` is 1 Apply tests the divisor only (R153). -/
theorem tuneCalls_eq (r : PinRec) (e : Encoded) :
    tuneCalls r e =
      (if r.hwen = false ∨ e.cd ≠ r.lastcd then [Call.setClockDivisor r.handle e.cd] else []) ++
        [Call.clearBuffer r.handle, Call.pushWord r.handle e.w] ++
        (if r.hwen = false then [Call.setEnabled r.handle true] else []) := by
  cases h : r.hwen <;> simp [tuneCalls, PinRec.needsDivisor, h]

/-- Settles O25: the pin's own channel plays the tone. -/
theorem startRetunesABoundPin : Obligations.StartRetunesABoundPin := by
  unfold Obligations.StartRetunesABoundPin
  intro s p fq duty dur e h hp hfq hok hb
  have hexec := exec_start_of_lt hp fq duty dur
  rw [startOp_of_bound hfq hok hb] at hexec
  have hframe := playTone_frame p e dur s
  obtain ⟨hnone, hsome⟩ := (s.pin p).played_alarm e.cd s.env.now dur
  refine ⟨_, hexec, ⟨rfl, rfl, rfl⟩, hframe.samePort, hframe.samePinsBut, hframe.sameSlots,
    playTone_freeCount .., ?_⟩
  rw [State.respond_pin, playTone_pin]
  refine ⟨hb, rfl, rfl, rfl, hnone, hsome, ?_⟩
  have hcalls := playTone_calls p e dur s
  rw [playCalls, tuneCalls_eq] at hcalls
  simp only [List.append_assoc] at hcalls ⊢
  exact hcalls

/-- A claim fails when the environment says so, or gives a handle no channel is left for (R158, log entry 8). -/
theorem claimAnswer_eq_none {s : State} (h : s.env.claim = none ∨ s.cfg.nChannels ≤ s.boundCount) :
    s.claimAnswer = none := by
  cases hanswer : s.claimAnswer with
  | none => rfl
  | some k =>
    obtain ⟨hclaim, -, hfree, -⟩ := claimAnswer_eq_some.1 hanswer
    rcases h with h | h
    · rw [h] at hclaim; cases hclaim
    · omega

/-- Settles O26: the claim is the only call, and no record is written. -/
theorem failedClaimLeavesPinUnbound : Obligations.FailedClaimLeavesPinUnbound := by
  unfold Obligations.FailedClaimLeavesPinUnbound
  intro s p fq duty dur hp hfq hok hb hclaim
  have hexec := exec_start_of_lt hp fq duty dur
  rw [startOp_of_claim_fails hfq hok hb (claimAnswer_eq_none hclaim)] at hexec
  exact ⟨_, hexec, ⟨rfl, rfl, rfl⟩, .refl s, fun _ => rfl, fun _ => rfl, rfl, hb, rfl⟩

/-! ### RETUNE -/

theorem retuneOp_of_ok {p : PinId} {fq duty : Int} {s : State} (hb : (s.pin p).bound = true)
    (hok : (encodeFD s.cfg fq duty).st = .ok) :
    retuneOp p fq duty s =
      (applyWord p (encodeFD s.cfg fq duty).cd (encodeFD s.cfg fq duty).w s, .ok) := by
  rcases retuneOp_cases p fq duty s with ⟨hb', -⟩ | ⟨-, hrej, -⟩ | ⟨-, -, h⟩
  · rw [hb] at hb'; cases hb'
  · exact absurd hok hrej
  · exact h

/-- Settles O28: RETUNE is Apply. -/
theorem retuneAppliesTheWord : Obligations.RetuneAppliesTheWord := by
  unfold Obligations.RetuneAppliesTheWord
  intro s p fq duty e h hp hb hok
  have hexec := exec_retune_of_lt hp fq duty
  rw [retuneOp_of_ok hb hok] at hexec
  have hframe := applyWord_frame p e.cd e.w s
  refine ⟨_, hexec, ⟨rfl, rfl, rfl⟩, hframe.samePort, hframe.samePinsBut, hframe.sameSlots, rfl,
    applyWord_pin .., ?_⟩
  rw [← tuneCalls_eq]
  exact applyWord_calls p e s

/-! ### CH_STOP and EV_ALARM -/

theorem chStopOp_of_unbound {p : PinId} {s : State} (hb : (s.pin p).bound = false) :
    chStopOp p s = (s, .notBound) := by
  rcases chStopOp_cases p s with ⟨-, h⟩ | ⟨hb', -⟩
  · exact h
  · rw [hb] at hb'; cases hb'

theorem retuneOp_of_unbound {p : PinId} {s : State} (hb : (s.pin p).bound = false) (fq duty : Int) :
    retuneOp p fq duty s = (s, .notBound) := by
  rcases retuneOp_cases p fq duty s with ⟨-, h⟩ | ⟨hb', -⟩ | ⟨hb', -⟩
  · exact h
  all_goals rw [hb] at hb'; cases hb'

/-- Settles O29: both operations end in the state they began in. -/
theorem unboundPinIsReported : Obligations.UnboundPinIsReported := by
  unfold Obligations.UnboundPinIsReported
  intro s p fq duty hp hb
  exact ⟨checkPin_answer_onlyResponds hp (retuneOp_of_unbound hb _ _),
    checkPin_answer_onlyResponds hp (chStopOp_of_unbound hb)⟩

/-- The record of a pin whose channel was released, the free values drawn being the `n`-th (R156). -/
def PinRec.released (r : PinRec) (n : Nat) : PinRec :=
  { r with
    hwen := false
    bound := false
    alarmPend := false
    handle := Config.unspecifiedHandle n
    lastcd := Config.unspecifiedDivisor n }

/-- The calls of CH_STOP on a bound pin with record `r` (R156). -/
def stopCalls (p : PinId) (r : PinRec) (idle : Bool) : List Call :=
  (if r.alarmPend then [Call.cancelOnce p] else []) ++
    [Call.setEnabled r.handle false, Call.releaseChannel r.handle, Call.setPinMode p .output,
      Call.writePin p idle]

theorem chStopOp_of_bound {p : PinId} {s : State} (hb : (s.pin p).bound = true) :
    (chStopOp p s).2 = .ok ∧ (chStopOp p s).1.pin p = (s.pin p).released s.freeCount ∧
      Calls s (chStopOp p s).1 (stopCalls p (s.pin p) s.cfg.idleLevel) := by
  rcases chStopOp_cases p s with ⟨hb', -⟩ | ⟨-, hst, hpin, htrace⟩
  · rw [hb] at hb'; cases hb'
  · exact ⟨hst, hpin, htrace⟩

/-- Settles O30, by the record and the calls of CH_STOP on a bound pin. -/
theorem stopReleasesTheChannel : Obligations.StopReleasesTheChannel := by
  unfold Obligations.StopReleasesTheChannel
  intro s p hp hb
  obtain ⟨hst, hpin, hcalls⟩ := chStopOp_of_bound hb
  have hframe := chStopOp_frame p s
  refine ⟨_, exec_chStop_of_lt hp, ⟨by rw [hst]; rfl, rfl, rfl⟩, hframe.samePort, hframe.samePinsBut,
    hframe.sameSlots, ?_⟩
  rw [State.respond_pin, hpin]
  exact ⟨rfl, rfl, rfl, rfl, hcalls⟩

/-- The state in which a fired alarm's CH_STOP runs: the alarm is spent (R157). -/
def spendAlarm (p : PinId) (s : State) : State := s.setPin p { s.pin p with alarmPend := false }

theorem spendAlarm_pin (p : PinId) (s : State) :
    (spendAlarm p s).pin p = { s.pin p with alarmPend := false } := State.setPin_pin_self ..

theorem alarmOp_of_pending {p : PinId} {s : State} (h : (s.pin p).alarmPend = true) :
    alarmOp p s = chStopOp p (spendAlarm p s) := if_pos h

/-- Settles O31: the alarm is spent, so that the CH_STOP it performs cancels none. -/
theorem alarmStopsTheTone : Obligations.AlarmStopsTheTone := by
  unfold Obligations.AlarmStopsTheTone
  intro s p hp halarm
  have hspent := spendAlarm_pin p s
  have hexec := exec_evAlarm_of_lt hp
  have hframe := alarmOp_frame p s
  rw [alarmOp_of_pending halarm] at hexec hframe
  refine ⟨_, hexec, hframe.samePort, hframe.samePinsBut, hframe.sameSlots, ?_⟩
  rw [State.respond_pin]
  cases hb : (s.pin p).bound
  case false =>
    rw [chStopOp_of_unbound (by rw [hspent]; exact hb), hspent]
    exact ⟨hb, rfl, rfl, nofun, fun _ => ⟨⟨rfl, rfl, rfl⟩, rfl, (List.append_nil _).symm⟩⟩
  case true =>
    have hb' : ((spendAlarm p s).pin p).bound = true := by rw [hspent]; exact hb
    obtain ⟨hst, hpin, hcalls⟩ := chStopOp_of_bound hb'
    rw [hspent] at hpin hcalls
    rw [hpin]
    exact ⟨rfl, rfl, rfl, fun _ => ⟨⟨by rw [hst]; rfl, rfl, rfl⟩, rfl, hcalls⟩, nofun⟩

/-! ### After `OK` (R160) -/

/-- Does a call touch the channel's buffer? -/
def Call.onBuffer : Call → Bool
  | .clearBuffer _ => true
  | .pushWord _ _ => true
  | _ => false

theorem filter_tuneCalls (r : PinRec) (e : Encoded) :
    (tuneCalls r e).filter Call.onBuffer = [.clearBuffer r.handle, .pushWord r.handle e.w] := by
  rw [tuneCalls]
  split <;> split <;> rfl

theorem filter_playCalls (p : PinId) (r : PinRec) (e : Encoded) (dur : Word) :
    (playCalls p r e dur).filter Call.onBuffer = [.clearBuffer r.handle, .pushWord r.handle e.w] := by
  rw [playCalls, List.filter_append, List.filter_append, filter_tuneCalls]
  split <;> split <;> rfl

/-- The calls between two states are one list. -/
theorem Calls.unique {s t : State} {xs ys : List Call} (h : Calls s t xs) (k : Calls s t ys) : xs = ys :=
  List.append_cancel_left (h.symm.trans k)

theorem Calls.trans {s t u : State} {xs ys : List Call} (h : Calls s t xs) (k : Calls t u ys) :
    Calls s u (xs ++ ys) := by
  rw [Calls, k, h, List.append_assoc]

/-- Pin `p` plays `e`: its channel is enabled at `e`'s divisor, and its buffer was given `e`'s word alone. -/
def PlaysTone (p : PinId) (e : Encoded) (s t : State) : Prop :=
  (t.pin p).bound = true ∧ (t.pin p).hwen = true ∧ (t.pin p).lastcd = e.cd ∧
    ∃ calls, Calls s t calls ∧
      calls.filter Call.onBuffer = [.clearBuffer (t.pin p).handle, .pushWord (t.pin p).handle e.w]

theorem playTone_plays {p : PinId} {s : State} (hb : (s.pin p).bound = true) (e : Encoded) (dur : Word) :
    PlaysTone p e s (playTone p e dur s) := by
  rw [PlaysTone, playTone_pin]
  exact ⟨hb, rfl, rfl, _, playTone_calls .., filter_playCalls ..⟩

theorem applyWord_plays {p : PinId} {s : State} (hb : (s.pin p).bound = true) (e : Encoded) :
    PlaysTone p e s (applyWord p e.cd e.w s) := by
  rw [PlaysTone, applyWord_pin]
  exact ⟨hb, rfl, rfl, _, applyWord_calls .., filter_tuneCalls ..⟩

/-- Claiming a channel leaves its buffer alone. -/
theorem PlaysTone.of_takeChannel {p : PinId} {h : Nat} {e : Encoded} {s t : State}
    (hplays : PlaysTone p e (takeChannel p h s) t) : PlaysTone p e s t := by
  obtain ⟨hb, hen, hcd, calls, hcalls, hbuffer⟩ := hplays
  have hclaim : Calls s (takeChannel p h s) [.claimChannel p, .setEnabled h false] := rfl
  exact ⟨hb, hen, hcd, _, hclaim.trans hcalls, hbuffer⟩

theorem startOp_plays {p : PinId} {fq duty : Int} {dur : Word} {s : State} (hfq : 0 < fq)
    (hst : (startOp p fq duty dur s).2 = .ok) :
    PlaysTone p (encodeFD s.cfg fq duty) s (startOp p fq duty dur s).1 := by
  rcases startOp_outcomes p fq duty dur s with
    ⟨hneg, -⟩ | ⟨-, hrej, h⟩ | ⟨-, -, -, -, h⟩ | ⟨-, -, hb, h⟩ |
    ⟨k, -, -, -, -, h⟩
  · omega
  all_goals rw [h] at hst ⊢
  · exact absurd hst hrej
  · cases hst
  · exact playTone_plays hb _ dur
  · exact (playTone_plays (by rw [takeChannel_pin]) _ dur).of_takeChannel

theorem retuneOp_plays {p : PinId} {fq duty : Int} {s : State} (hst : (retuneOp p fq duty s).2 = .ok) :
    PlaysTone p (encodeFD s.cfg fq duty) s (retuneOp p fq duty s).1 := by
  rcases retuneOp_cases p fq duty s with ⟨-, h⟩ | ⟨-, hrej, h⟩ | ⟨hb, -, h⟩ <;> rw [h] at hst ⊢
  · cases hst
  · exact absurd hst hrej
  · exact applyWord_plays hb _

/-- No other status has the code of `OK` (R93). -/
theorem Status.eq_ok_of_word_eq {st : Status} (h : st.word = Status.ok.word) : st = .ok := by
  cases st with
  | ok => rfl
  | _ => exact absurd h (by decide)

/-- An operation behind the check of R95 item 4 that answers `OK` ran, and ended with `OK`. -/
theorem checkPin_answer_ok {p : PinId} {s t : State} {r : State × Status}
    (h : checkPin p s (answer r) = .next t) (hst : t.status = Status.ok.word) :
    r.2 = .ok ∧ t = r.1.respond r.2 0 0 := by
  rcases Nat.lt_or_ge p.toNat s.cfg.nPins with hp | hp
  · rw [checkPin_of_lt hp] at h
    obtain rfl := Host.Outcome.next.inj h
    exact ⟨Status.eq_ok_of_word_eq hst, rfl⟩
  · rw [checkPin_of_le hp] at h
    obtain rfl := Host.Outcome.next.inj h
    exact absurd hst (show Status.illegal.word ≠ Status.ok.word by decide)

/-- Settles O32: START plays on the pin's channel or on a claimed one, RETUNE on the pin's. -/
theorem okLeavesTheToneApplied : Obligations.OkLeavesTheToneApplied := by
  unfold Obligations.OkLeavesTheToneApplied
  intro s t p fq duty dur i calls e touchesBuffer hi hexec hst hcalls
  have hbuffer : touchesBuffer = Call.onBuffer := by funext c; cases c <;> rfl
  have hplays : PlaysTone p e s t := by
    rcases hi with ⟨rfl, hfq⟩ | rfl
    · obtain ⟨hok, rfl⟩ := checkPin_answer_ok hexec hst
      exact startOp_plays hfq hok
    · obtain ⟨hok, rfl⟩ := checkPin_answer_ok hexec hst
      exact retuneOp_plays hok
  obtain ⟨hb, hen, hcd, calls', hcalls', hfilter⟩ := hplays
  rw [hbuffer, hcalls.unique hcalls']
  exact ⟨hb, hen, hcd, hfilter⟩

end Sys2Proof.Machine
end

section
/-! PROOF. The Speaker slots (R180 to R190): construction, the setters, SPK_PLAY on a stopped slot, SPK_STOP, the
getters and the no-op cases. -/

namespace Sys2Proof.Machine

/-! ### What a record stores -/

/-- The step period stored is exact: no value of R181 needs more than the 32 bits of `PERIOD`. -/
theorem stepPeriod_ofNat_toNat {c : Config} (hc : c.FormatsLegal) (n : Nat) (fq : Int) :
    (BitVec.ofNat 32 (stepPeriod c n fq)).toNat = stepPeriod c n fq := by
  rw [BitVec.toNat_ofNat, Nat.mod_eq_of_lt (stepPeriod_lt hc n fq)]

/-- R122 and R184: the clamp to the range from 0 to 1. -/
theorem clampUnit_cast {c : Config} (hc : c.FormatsLegal) (x : Int) :
    (clampUnit c x : Int) = max 0 (min x 65536) := by
  unfold clampUnit clamp
  rw [unit_of_formatsLegal hc]
  split_ifs <;> omega

theorem volLaw_le {c : Config} (hc : c.FormatsLegal) {v : Nat} (hv : v ≤ 65536) : volLaw c v ≤ 65536 := by
  obtain ⟨-, hle, -⟩ := volumeLawProperties c hc
  exact hle v hv

/-- The duty scale stored is the law's value at the volume stored (R36). -/
theorem SlotRec.withVolume_scale_toNat (r : SlotRec) {c : Config} (hc : c.FormatsLegal) (z : Int) :
    (r.withVolume c z).scale.toNat = volLaw c (r.withVolume c z).vol.toNat := by
  have hle := volLaw_le hc (r.withVolume_vol_le hc z)
  rw [r.withVolume_vol_toNat hc] at hle ⊢
  change (BitVec.ofNat 17 _).toNat = _
  rw [BitVec.toNat_ofNat]
  omega

/-- A catalogue index of a legal configuration fits the 8 bits of `WAVE` (R32). -/
theorem defaultWave_ofNat_toNat {c : Config} (hc : configLegal c = true) :
    (BitVec.ofNat 8 c.defaultWave).toNat = c.defaultWave := by
  obtain ⟨-, -, -, -, ⟨-, hwaves⟩, hdefault, -⟩ := (configLegal_iff c).1 hc
  rw [BitVec.toNat_ofNat]
  omega

/-- Writing one slot's record writes no other (R29 to R42). -/
theorem setSlot_sameSlotsBut (s : State) (v : SlotId) (r : SlotRec) : SameSlotsBut v s (s.setSlot v r) :=
  fun _ hu => State.setSlot_slot_ne s hu r

/-! ### SPK_INIT -/

theorem execSpkInit_of_legal {v : SlotId} {p : PinId} {fq : Word} {s : State} (hv : v.toNat < s.cfg.nSlots)
    (hp : p.toNat < s.cfg.nPins) (hvalid : (s.slot v).valid = false) (hfq : 0 < fq.toInt) (aff : Bool)
    (vol : Word) :
    execSpkInit v p aff fq vol s =
      .next ((s.setSlot v ((s.slot v).construct s.cfg p aff fq vol)).respond .ok 0 0) :=
  if_pos ⟨hv, hp, hvalid, hfq⟩

section Construct

variable (r : SlotRec) {c : Config} (p : PinId) (aff : Bool) (fq vol : Word)

theorem SlotRec.construct_vol (hc : c.FormatsLegal) :
    ((r.construct c p aff fq vol).vol.toNat : Int) = max 0 (min vol.toInt 65536) := by
  rw [← clampUnit_cast hc]
  exact congrArg Nat.cast (r.withVolume_vol_toNat hc vol.toInt)

theorem SlotRec.construct_scale (hc : c.FormatsLegal) :
    (r.construct c p aff fq vol).scale.toNat = volLaw c (r.construct c p aff fq vol).vol.toNat :=
  r.withVolume_scale_toNat hc vol.toInt

theorem SlotRec.construct_period (hc : c.FormatsLegal) :
    (r.construct c p aff fq vol).period.toNat =
      stepPeriod c (waveSize c (r.construct c p aff fq vol).wave) fq.toInt :=
  stepPeriod_ofNat_toNat hc ..

end Construct

/-- Settles O34, by the record constructed. -/
theorem initConstructsTheSlot : Obligations.InitConstructsTheSlot := by
  unfold Obligations.InitConstructsTheSlot
  intro s v p aff fq vol hv hp hvalid hfq hc
  have hformats := formatsLegal_of_configLegal hc
  have hexec := (exec_spkInit v p aff fq vol s).trans (execSpkInit_of_legal hv hp hvalid hfq aff vol)
  refine ⟨_, hexec, ⟨rfl, rfl, rfl⟩, .refl s, fun _ => rfl, setSlot_sameSlotsBut s v _, rfl, rfl, ?_⟩
  rw [State.respond_slot, State.setSlot_slot_self]
  exact ⟨rfl, rfl, rfl, defaultWave_ofNat_toNat hc, rfl, rfl, SlotRec.construct_vol _ p aff fq vol hformats,
    SlotRec.construct_scale _ p aff fq vol hformats, SlotRec.construct_period _ p aff fq vol hformats,
    rfl, rfl, rfl, rfl, rfl, rfl, rfl, rfl⟩

/-! ### The setters -/

/-- The record SPK_SET_FREQ writes (R183). -/
def SlotRec.withFreq (r : SlotRec) (c : Config) (fq : Word) : SlotRec :=
  { ({ r with freq := fq }).withPeriod c with dirty := r.dirty || r.playing }

section Setters

variable {s : State} {v : SlotId}

theorem exec_spkSetFreq_of_new (hv : v.toNat < s.cfg.nSlots) (hvalid : (s.slot v).valid = true) {fq : Word}
    (hne : fq ≠ (s.slot v).freq) (hfq : 0 < fq.toInt) :
    exec (.spkSetFreq v fq) s = .next ((s.setSlot v ((s.slot v).withFreq s.cfg fq)).respond .ok 0 0) := by
  have hnew : ¬(fq = (s.slot v).freq ∨ sint32 fq ≤ 0) := by
    rintro (h | h)
    · exact hne h
    · exact absurd hfq (not_lt.2 h)
  change execSpkSetFreq v fq s = _
  rw [execSpkSetFreq, checkSlot_of_valid hv hvalid]
  exact if_neg hnew

theorem exec_spkSetVol_of_new (hv : v.toNat < s.cfg.nSlots) (hvalid : (s.slot v).valid = true) {vol : Word}
    (hne : vol.toInt ≠ (s.slot v).vol.toNat) :
    exec (.spkSetVol v vol) s =
      .next ((s.setSlot v ((s.slot v).withVolume s.cfg vol.toInt)).respond .ok 0 0) := by
  change execSpkSetVol v vol s = _
  rw [execSpkSetVol, checkSlot_of_valid hv hvalid]
  exact if_neg hne

/-- The record SPK_SET_WAVE writes: the swap pends on a playing slot (R185). -/
def SlotRec.withWave (r : SlotRec) (c : Config) (w : BitVec 8) : SlotRec :=
  if r.playing then { r with pend := w, pendValid := true } else ({ r with wave := w }).withPeriod c

theorem SlotRec.withWave_of_playing {r : SlotRec} (h : r.playing = true) (c : Config) (w : BitVec 8) :
    r.withWave c w = { r with pend := w, pendValid := true } := if_pos h

theorem SlotRec.withWave_of_stopped {r : SlotRec} (h : r.playing = false) (c : Config) (w : BitVec 8) :
    r.withWave c w = ({ r with wave := w }).withPeriod c := if_neg (by rw [h]; exact Bool.false_ne_true)

theorem exec_spkSetWave_of_lt (hv : v.toNat < s.cfg.nSlots) (hvalid : (s.slot v).valid = true) {w : BitVec 8}
    (hw : w.toNat < s.cfg.waves.length) :
    exec (.spkSetWave v w) s = .next ((s.setSlot v ((s.slot v).withWave s.cfg w)).respond .ok 0 0) := by
  change execSpkSetWave v w s = _
  rw [execSpkSetWave, checkSlot_of_valid hv hvalid]
  dsimp only
  rw [if_pos hw, SlotRec.withWave]
  cases (s.slot v).playing <;> rfl

end Setters

/-- Settles O35, by the record written and its exact period. -/
theorem setFreqStoresTheFrequency : Obligations.SetFreqStoresTheFrequency := by
  unfold Obligations.SetFreqStoresTheFrequency
  intro s v fq hc hv hvalid hne hfq
  refine ⟨_, exec_spkSetFreq_of_new hv hvalid hne hfq, ⟨rfl, rfl, rfl⟩, .refl s, fun _ => rfl,
    setSlot_sameSlotsBut s v _, rfl, rfl, ?_⟩
  rw [State.respond_slot, State.setSlot_slot_self]
  refine ⟨stepPeriod_ofNat_toNat hc _ _, ?_⟩
  have hdirty : ((s.slot v).dirty || (s.slot v).playing) =
      if (s.slot v).playing then true else (s.slot v).dirty := by
    cases (s.slot v).playing <;> simp
  rw [SlotRec.withFreq, hdirty]
  rfl

/-- Settles O36, by the record written, its clamped volume and the scale that goes with it. -/
theorem setVolStoresTheClampedVolume : Obligations.SetVolStoresTheClampedVolume := by
  unfold Obligations.SetVolStoresTheClampedVolume
  intro s v vol hc hv hvalid hne
  refine ⟨_, exec_spkSetVol_of_new hv hvalid hne, ⟨rfl, rfl, rfl⟩, .refl s, fun _ => rfl,
    setSlot_sameSlotsBut s v _, rfl, rfl, ?_⟩
  rw [State.respond_slot, State.setSlot_slot_self]
  refine ⟨?_, SlotRec.withVolume_scale_toNat _ hc _, rfl⟩
  rw [SlotRec.withVolume_vol_toNat _ hc, clampUnit_cast hc]

/-- Settles O37, by the two records that the slot's state of play selects. -/
theorem setWaveSwapsOrPends : Obligations.SetWaveSwapsOrPends := by
  unfold Obligations.SetWaveSwapsOrPends
  intro s v w hc hv hvalid hw
  refine ⟨_, exec_spkSetWave_of_lt hv hvalid hw, ⟨rfl, rfl, rfl⟩, .refl s, fun _ => rfl,
    setSlot_sameSlotsBut s v _, rfl, rfl, ?_⟩
  rw [State.respond_slot, State.setSlot_slot_self]
  refine ⟨fun hplaying => SlotRec.withWave_of_playing hplaying .., fun hstopped => ?_⟩
  rw [SlotRec.withWave_of_stopped hstopped]
  exact ⟨stepPeriod_ofNat_toNat hc _ _, rfl⟩

/-! ### SPK_PLAY on a stopped slot -/

/-- An operand word that holds the carrier's raw value is read as it (R84, R232). -/
theorem toInt_eq_carrierFq {c : Config} {w : Word} (hlt : c.carrierHz * 2 ^ c.freqFB < 2 ^ 31)
    (hw : w.toNat = c.carrierHz * 2 ^ c.freqFB) : w.toInt = carrierFq c := by
  rw [BitVec.toInt_eq_toNat_of_lt (by omega), hw, carrierFq]

theorem exec_spkPlay_of_stopped {v : SlotId} {s : State} (hv : v.toNat < s.cfg.nSlots)
    (hvalid : (s.slot v).valid = true) (hstopped : (s.slot v).playing = false) (dur : Word) :
    exec (.spkPlay v dur) s =
      .next ((spkPlayStart v dur s).1.respond .ok (spkPlayStart v dur s).2.word 0) := by
  rw [exec_spkPlay, execSpkPlay, checkSlot_of_valid hv hvalid]
  exact if_neg (by rw [hstopped]; exact Bool.false_ne_true)

/-- The record SPK_PLAY leaves of a stopped slot (R186). -/
def SlotRec.started (r : SlotRec) (now : Time) (dur : Word) : SlotRec :=
  { r with
    tmrReg := true
    tmrInterval := r.period
    playing := true
    dl := if dur = 0 then r.dl else addMs now dur
    dlValid := if dur = 0 then r.dlValid else true }

theorem spkPlayStart_eq (v : SlotId) (dur : Word) (s : State) :
    let start := startOp (s.slot v).pin (carrierFq s.cfg) 0 0 s
    spkPlayStart v dur s =
      ((start.1.emit [.scheduleRepeating (s.slot v).period v]).setSlot v ((s.slot v).started s.env.now dur),
        start.2) := by
  rw [spkPlayStart_spec]
  by_cases hdur : dur = 0#32 <;> simp [uint32_pos_iff, SlotRec.started, SlotRec.withDeadline, hdur]

/-- Settles O39: the start branch is START of the carrier, then the timer and the slot's record. -/
theorem playStartsTheCarrier : Obligations.PlayStartsTheCarrier := by
  unfold Obligations.PlayStartsTheCarrier
  intro s v dur carrier hv hvalid hstopped hp hlt hcarrier
  have hstart := exec_start_of_lt hp carrier 0 0
  rw [toInt_eq_carrierFq hlt hcarrier, show (0 : Word).toInt = 0 from rfl] at hstart
  have hplay := exec_spkPlay_of_stopped hv hvalid hstopped dur
  rw [spkPlayStart_eq] at hplay
  have hframe := startOp_frame (s.slot v).pin (carrierFq s.cfg) 0 0 s
  generalize startOp (s.slot v).pin (carrierFq s.cfg) 0 0 s = start at hstart hplay hframe
  refine ⟨_, _, hstart, hplay, ⟨rfl, rfl, rfl⟩, hframe.samePort, fun _ => rfl,
    fun u hu => ?others, rfl, rfl, ?own⟩
  case others =>
    rw [State.respond_slot, State.setSlot_slot_ne _ hu, State.emit_slot]
    exact hframe.sameSlots u
  case own => exact State.setSlot_slot_self ..

/-! ### SPK_STOP -/

/-- The record SPK_STOP leaves of a playing slot (R187). -/
def SlotRec.stopped (r : SlotRec) : SlotRec := { r with playing := false, dlValid := false, tmrReg := false }

/-- The state in which the CH_STOP of a playing slot's SPK_STOP runs (R187). -/
def cancelTimer (v : SlotId) (s : State) : State :=
  (s.setSlot v (s.slot v).stopped).emit [.cancelRepeating v]

theorem spkStopOp_of_stopped {v : SlotId} {s : State} (hstopped : (s.slot v).playing = false) :
    spkStopOp v s = (s, .noop, 0, 0) := by
  rcases spkStopOp_cases v s with ⟨-, h⟩ | ⟨hplaying, -⟩
  · exact h
  · rw [hstopped] at hplaying; cases hplaying

theorem spkStopOp_of_playing {v : SlotId} {s : State} (hplaying : (s.slot v).playing = true) :
    spkStopOp v s =
      ((chStopOp (s.slot v).pin (cancelTimer v s)).1, .ok,
        (chStopOp (s.slot v).pin (cancelTimer v s)).2.word, 0) := by
  rcases spkStopOp_cases v s with ⟨hstopped, -⟩ | ⟨-, h⟩
  · rw [hplaying] at hstopped; cases hstopped
  · exact h

/-- Two runs of a channel operation whose states agree on the channels end alike: in the channel records, the
free values drawn, the status and the calls made. -/
structure SameEffect (s s' : State) (r r' : State × Status) : Prop where
  pins : SamePins r.1 r'.1
  freeCount : r'.1.freeCount = r.1.freeCount
  status : r'.2 = r.2
  calls : ∀ calls, Calls s r.1 calls → Calls s' r'.1 calls

/-- An operation on pin `p`: its own record ends alike, and it writes no other. -/
theorem SameEffect.of_frames {p : PinId} {s s' : State} {r r' : State × Status} {calls : List Call}
    (hpins : SamePins s s') (hr : PinFrame p s r.1) (hr' : PinFrame p s' r'.1) (hown : r'.1.pin p = r.1.pin p)
    (hfree : r'.1.freeCount = r.1.freeCount) (hst : r'.2 = r.2) (hcalls : Calls s r.1 calls)
    (hcalls' : Calls s' r'.1 calls) : SameEffect s s' r r' where
  pins := fun q => by
    by_cases hq : q = p
    · rw [hq, hown]
    · rw [hr'.samePinsBut q hq, hr.samePinsBut q hq, hpins q]
  freeCount := hfree
  status := hst
  calls := fun _ h => h.unique hcalls ▸ hcalls'

/-- An operation that ends where it began. -/
theorem SameEffect.of_idle {s s' : State} {st : Status} (hpins : SamePins s s')
    (hfree : s'.freeCount = s.freeCount) : SameEffect s s' (s, st) (s', st) where
  pins := hpins
  freeCount := hfree
  status := rfl
  calls := fun _ h => h.unique (List.append_nil _).symm ▸ (List.append_nil _).symm

/-- CH_STOP of a bound pin draws one pair of free values (log entry 4). -/
theorem chStopOp_freeCount {p : PinId} {s : State} (hb : (s.pin p).bound = true) :
    (chStopOp p s).1.freeCount = s.freeCount + 1 := by
  rw [chStopOp, if_pos hb]
  exact congrArg (· + 1) (cancelAlarm_freeCount p s)

/-- CH_STOP reads the channel record, the idle level and the free values only (R156). -/
theorem chStopOp_sameEffect (p : PinId) {s s' : State} (hpins : SamePins s s') (hcfg : s'.cfg = s.cfg)
    (hfree : s'.freeCount = s.freeCount) : SameEffect s s' (chStopOp p s) (chStopOp p s') := by
  cases hb : (s.pin p).bound
  case false =>
    rw [chStopOp_of_unbound hb, chStopOp_of_unbound (by rw [hpins p]; exact hb)]
    exact .of_idle hpins hfree
  case true =>
    have hb' : (s'.pin p).bound = true := by rw [hpins p]; exact hb
    obtain ⟨hst, hpin, hcalls⟩ := chStopOp_of_bound hb
    obtain ⟨hst', hpin', hcalls'⟩ := chStopOp_of_bound hb'
    rw [hpins p, hfree] at hpin'
    rw [hpins p, hcfg] at hcalls'
    refine .of_frames hpins (chStopOp_frame p s) (chStopOp_frame p s') (hpin'.trans hpin.symm) ?_
      (hst'.trans hst.symm) hcalls hcalls'
    rw [chStopOp_freeCount hb, chStopOp_freeCount hb', hfree]

theorem exec_spkStop_of_stopped {v : SlotId} {s : State} (hv : v.toNat < s.cfg.nSlots)
    (hvalid : (s.slot v).valid = true) (hstopped : (s.slot v).playing = false) :
    exec (.spkStop v) s = .next (s.respond .noop 0 0) := by
  change execSpkStop v s = _
  rw [execSpkStop, checkSlot_of_valid hv hvalid, spkStopOp_of_stopped hstopped]

theorem exec_evTick_of_stopped {v : SlotId} {s : State} (hv : v.toNat < s.cfg.nSlots)
    (hvalid : (s.slot v).valid = true) (hstopped : (s.slot v).playing = false) :
    exec (.evTick v) s = .next (s.respond .noop 0 0) := by
  rw [exec_evTick, execEvTick_of_stopped hstopped, checkSlot_of_valid hv hvalid, answer]

theorem exec_spkStop_of_playing {v : SlotId} {s : State} (hv : v.toNat < s.cfg.nSlots)
    (hvalid : (s.slot v).valid = true) (hplaying : (s.slot v).playing = true) :
    exec (.spkStop v) s =
      .next ((chStopOp (s.slot v).pin (cancelTimer v s)).1.respond .ok
        (chStopOp (s.slot v).pin (cancelTimer v s)).2.word 0) := by
  change execSpkStop v s = _
  rw [execSpkStop, checkSlot_of_valid hv hvalid, spkStopOp_of_playing hplaying]

/-- Settles O40: CH_STOP does not read what SPK_STOP wrote before it. -/
theorem speakerStopStopsTheChannel : Obligations.SpeakerStopStopsTheChannel := by
  unfold Obligations.SpeakerStopStopsTheChannel
  intro s v hv hvalid hplaying hp
  have heffect : SameEffect s (cancelTimer v s) (chStopOp (s.slot v).pin s) _ :=
    chStopOp_sameEffect (s.slot v).pin (fun _ => rfl) rfl rfl
  have hframe := chStopOp_frame (s.slot v).pin (cancelTimer v s)
  refine ⟨_, _, exec_chStop_of_lt hp, exec_spkStop_of_playing hv hvalid hplaying,
    ⟨rfl, congrArg Status.word heffect.status, rfl⟩, hframe.samePort, heffect.pins, fun u hu => ?others,
    heffect.freeCount, fun calls hcalls => ?calls, ?own⟩
  case others => exact (hframe.sameSlots u).trans (State.setSlot_slot_ne s hu _)
  case calls =>
    have hcancel : Calls s (cancelTimer v s) [.cancelRepeating v] := rfl
    exact hcancel.trans (heffect.calls calls hcalls)
  case own => exact (hframe.sameSlots v).trans (State.setSlot_slot_self s v _)

/-! ### The getters and the no-op cases -/

/-- A getter's answer: the response is all it writes (R188 to R190). -/
theorem checkSlot_respond {v : SlotId} {s : State} (hv : v.toNat < s.cfg.nSlots)
    (hvalid : (s.slot v).valid = true) (st : Status) (x y : Word) :
    ∃ t, checkSlot v s (.next (s.respond st x y)) = .next t ∧ Responds st x y t ∧ OnlyResponds s t :=
  ⟨_, checkSlot_of_valid hv hvalid _, ⟨rfl, rfl, rfl⟩, .respond s st x y⟩

/-- Settles O41: each getter's response is its field, as the word it is returned in. -/
theorem gettersReadTheSlot : Obligations.GettersReadTheSlot := by
  unfold Obligations.GettersReadTheSlot
  intro s v hv hvalid
  have hplaying : (if (s.slot v).playing then 1 else 0) = flagWord (s.slot v).playing := by
    cases (s.slot v).playing <;> rfl
  rw [BitVec.ofNat_toNat, hplaying]
  exact ⟨checkSlot_respond hv hvalid _ _ _, checkSlot_respond hv hvalid _ _ _, checkSlot_respond hv hvalid _ _ _⟩

/-- Settles O42: each case answers from the state it found. -/
theorem noopCasesChangeNothing : Obligations.NoopCasesChangeNothing := by
  unfold Obligations.NoopCasesChangeNothing
  intro s noop
  have answersNoop {i : Instr} (h : exec i s = .next (s.respond .noop 0 0)) : noop i :=
    ⟨_, h, ⟨rfl, rfl, rfl⟩, .respond s .noop 0 0⟩
  refine ⟨fun p hp halarm => ?alarm, fun v hv hvalid =>
    ⟨fun fq hfq => ?freq, fun vol hvol => ?vol, fun hstopped => ⟨?stop, ?tick⟩⟩⟩
  case alarm =>
    refine answersNoop ?_
    rw [exec_evAlarm_of_lt hp, alarmOp, halarm]; rfl
  case freq => exact answersNoop ((checkSlot_of_valid hv hvalid _).trans (if_pos hfq))
  case vol => exact answersNoop ((checkSlot_of_valid hv hvalid _).trans (if_pos hvol))
  case stop => exact answersNoop (exec_spkStop_of_stopped hv hvalid hstopped)
  case tick => exact answersNoop (exec_evTick_of_stopped hv hvalid hstopped)

/-! ### The step period -/

/-- Settles O43: the quotient of `10^6 · 2^8`, raised to 1 where it is below. -/
theorem stepPeriodIsTheTruncatedQuotient : Obligations.StepPeriodIsTheTruncatedQuotient := by
  unfold Obligations.StepPeriodIsTheTruncatedQuotient
  intro c n fq hc hn hfq q
  obtain ⟨f, rfl⟩ := Int.eq_ofNat_of_zero_le hfq.le
  have hpos : 0 < n * f := Nat.mul_pos hn (by omega)
  have hq : q = max 1 (256000000 / (n * f)) := by
    change max 1 (fdiv _ _) = _
    rw [hc.1]; rfl
  have below : 256000000 / (n * f) * (n * f) ≤ 256000000 := Nat.div_mul_le_self ..
  have above : 256000000 < (256000000 / (n * f) + 1) * (n * f) := by
    rw [Nat.mul_comm]; exact Nat.lt_mul_div_succ 256000000 hpos
  have quotient_le : 256000000 / (n * f) ≤ 256000000 := Nat.div_le_self ..
  refine ⟨by omega, by omega, ?above, fun hle => ?below, fun hgt => ?one⟩
  case above =>
    have : (256000000 / (n * f) + 1) * (n * f) ≤ (q + 1) * (n * f) := Nat.mul_le_mul_right _ (by omega)
    exact_mod_cast above.trans_le this
  case below =>
    have hle : n * f ≤ 256000000 := by exact_mod_cast hle
    have : 1 ≤ 256000000 / (n * f) := (Nat.le_div_iff_mul_le hpos).2 (by omega)
    rw [show q = 256000000 / (n * f) by omega]
    exact_mod_cast below
  case one =>
    have hgt : 256000000 < n * f := by exact_mod_cast hgt
    rw [hq, Nat.div_eq_of_lt hgt]; rfl

end Sys2Proof.Machine
end

section
/-! PROOF. The waveform pipeline (R220 to R232): what a tick that publishes answers and leaves, the deadline, the
glitch-free swap, and the calls of a carrier step. -/

namespace Sys2Proof.Machine

/-! ### The scaled sample -/

/-- R221: the bounds of the rounding, over 255 steps. -/
theorem scaleSample_bounds (smp scale : Nat) :
    510 * scaleSample smp scale ≤ 2 * (smp * scale) + 255 ∧
      2 * (smp * scale) + 255 < 510 * (scaleSample smp scale + 1) :=
  rdiv_bounds (smp * scale) (b := 255) (by omega)

theorem scaleSample_le {smp : Nat} (hsmp : smp ≤ 255) (scale : Nat) : scaleSample smp scale ≤ scale := by
  obtain ⟨hle, -⟩ := scaleSample_bounds smp scale
  have : smp * scale ≤ 255 * scale := Nat.mul_le_mul_right scale hsmp
  omega

/-- Settles O54: 510 times the duty and twice the product are even, so the rounding has no tie. -/
theorem scaledSampleStaysWithinTheScale : Obligations.ScaledSampleStaysWithinTheScale := by
  unfold Obligations.ScaledSampleStaysWithinTheScale
  intro smp scale hsmp hscale
  have hle := scaleSample_le hsmp scale
  obtain ⟨hlo, hhi⟩ := scaleSample_bounds smp scale
  refine ⟨hle, hle.trans hscale, ?_⟩
  zify at hlo hhi
  generalize (smp : Int) * scale = product at hlo hhi ⊢
  rcases abs_cases (255 * (scaleSample smp scale : Int) - product) with ⟨habs, -⟩ | ⟨habs, -⟩ <;> omega

theorem sample_le (c : Config) (w : BitVec 8) (i : Nat) (noise : Byte) : sample c w i noise ≤ 255 := by
  unfold sample
  split
  · exact Nat.le_of_lt_succ (BitVec.isLt _)
  · exact Nat.le_of_lt_succ (BitVec.isLt _)

/-! ### A tick that publishes -/

/-- The duty of the step a slot with record `r` publishes next, a due swap being committed first (R220). -/
def SlotRec.duty (r : SlotRec) (c : Config) (noise : Byte) : Nat :=
  scaleSample (sample c (r.commitSwap c).wave r.index.toNat noise) r.scale.toNat

theorem SlotRec.duty_lt (r : SlotRec) (c : Config) (noise : Byte) : r.duty c noise < 2 ^ 17 :=
  (scaleSample_le (sample_le ..) _).trans_lt r.scale.isLt

/-- The calls of steps 3 and 4 of EV_TICK on a slot with record `r` (R220, R226). -/
def rearmCalls (v : SlotId) (r : SlotRec) (c : Config) : List Call :=
  if (r.commitSwap c).dirty then [.rearm (r.commitSwap c).period v] else []

/-- The state in which the RETUNE of a publishing tick runs (R220). -/
def publishing (v : SlotId) (s : State) : State :=
  (s.emit (rearmCalls v (s.slot v) s.cfg)).setSlot v ((s.slot v).ticked s.cfg)

/-- The RETUNE of a publishing tick (R220 step 5). -/
def tickRetune (v : SlotId) (s : State) : State × Status :=
  retuneOp (s.slot v).pin (carrierFq s.cfg) ((s.slot v).duty s.cfg s.env.noise) (publishing v s)

/-- Step 3 of EV_TICK writes the waveform, its period and the two flags (R220, R225). -/
theorem SlotRec.commitSwap_eq (r : SlotRec) (c : Config) :
    r.commitSwap c =
      { r with
        wave := if r.swapDue then r.pend else r.wave
        pendValid := r.pendValid && !r.swapDue
        period := if r.swapDue then BitVec.ofNat 32 (stepPeriod c (waveSize c r.pend) (sint32 r.freq))
          else r.period
        dirty := r.dirty || r.swapDue } := by
  cases hdue : r.swapDue
  · simp [commitSwap, hdue]
  · simp [commitSwap, hdue, withPeriod]

theorem SlotRec.commitSwap_of_not_due {r : SlotRec} (h : ¬(r.index = 0 ∧ r.pendValid = true)) (c : Config) :
    r.commitSwap c = r := by
  rcases r.commitSwap_cases c with ⟨-, heq⟩ | ⟨hindex, hpend, -⟩
  · exact heq
  · exact absurd ⟨hindex, hpend⟩ h

theorem exec_evTick_publish {v : SlotId} {s : State} (hv : v.toNat < s.cfg.nSlots)
    (hvalid : (s.slot v).valid = true) (hplaying : (s.slot v).playing = true)
    (hdl : ¬((s.slot v).dlValid = true ∧ (s.slot v).dl ≤ s.env.now)) :
    exec (.evTick v) s =
      .next ((tickRetune v s).1.respond .ok (tickRetune v s).2.word
        (BitVec.ofNat 32 ((s.slot v).duty s.cfg s.env.noise))) := by
  have hdl : (s.slot v).deadlinePassed s.env.now = false := by
    rwa [← Bool.not_eq_true, SlotRec.deadlinePassed_iff]
  have hpin : ((s.slot v).commitSwap s.cfg).pin = (s.slot v).pin := by rw [SlotRec.commitSwap_eq]
  have hscale : ((s.slot v).commitSwap s.cfg).scale = (s.slot v).scale := by rw [SlotRec.commitSwap_eq]
  have hindex := SlotRec.commitSwap_index (s.slot v) s.cfg
  rw [exec_evTick, execEvTick_publish hv hvalid hplaying hdl]
  simp only [tickRetune, publishing, SlotRec.ticked, SlotRec.duty, rearmCalls, hpin, hscale, hindex]

theorem tickRetune_frame (v : SlotId) (s : State) :
    PinFrame (s.slot v).pin (publishing v s) (tickRetune v s).1 := retuneOp_frame ..

theorem tickRetune_slot (v : SlotId) (s : State) :
    (tickRetune v s).1.slot v = (s.slot v).ticked s.cfg :=
  ((tickRetune_frame v s).sameSlots v).trans (State.setSlot_slot_self ..)

/-! ### The deadline -/

theorem SlotRec.ticked_playing (r : SlotRec) (c : Config) : (r.ticked c).playing = r.playing := by
  change (r.commitSwap c).playing = _
  rw [commitSwap_eq]

/-- Settles O48: past the deadline EV_TICK runs SPK_STOP, and before it publishes, which keeps `PLAYING`. -/
theorem tickAtTheDeadlineIsStop : Obligations.TickAtTheDeadlineIsStop := by
  unfold Obligations.TickAtTheDeadlineIsStop
  intro s v hv hvalid hplaying
  refine ⟨fun hset hpast => ?stop, fun hbefore => ?goesOn⟩
  case stop =>
    exact execEvTick_of_deadlinePassed hplaying ((SlotRec.deadlinePassed_iff ..).2 ⟨hset, hpast⟩)
  case goesOn =>
    have hdl : ¬((s.slot v).dlValid = true ∧ (s.slot v).dl ≤ s.env.now) := by
      rintro ⟨hset, hpast⟩
      rcases hbefore with hunset | hbefore
      · rw [hset] at hunset; cases hunset
      · exact absurd hpast (not_le.2 hbefore)
    refine ⟨_, exec_evTick_publish hv hvalid hplaying hdl, ?_⟩
    rw [State.respond_slot, tickRetune_slot, SlotRec.ticked_playing, hplaying]

/-! ### The calls of a step -/

/-- The divisor Encode returns with `OK` is the frequency's, whatever the duty (R133). -/
theorem encodeFD_cd_of_ok {c : Config} {fq duty : Int} (hok : (encodeFD c fq duty).st = .ok) :
    (encodeFD c fq duty).cd = BitVec.ofNat 25 (encoderDivisor c fq) := by
  rw [encodeFD_of_ok duty (encodeFD_st c fq duty ▸ hok)]

/-- Apply at the divisor the channel has (R153, R161). -/
theorem tuneCalls_of_same_divisor {r : PinRec} {e : Encoded} (hwen : r.hwen = true) (hcd : r.lastcd = e.cd) :
    tuneCalls r e = [.clearBuffer r.handle, .pushWord r.handle e.w] := by
  simp [tuneCalls, PinRec.needsDivisor, hwen, hcd]

/-- Settles O53: the step re-arms nothing, and its word goes to a channel at the carrier's divisor. -/
theorem carrierStepWritesNoDivisor : Obligations.CarrierStepWritesNoDivisor := by
  unfold Obligations.CarrierStepWritesNoDivisor
  intro s v duty0 r h hv hvalid hplaying hdl hclean hnotDue hbound hwen hok hlast
  set d := r.duty s.cfg s.env.noise with hd
  have hstatus : (encodeFD s.cfg (carrierFq s.cfg) d).st = .ok := by
    rw [encodeFD_st, ← encodeFD_st _ _ duty0, hok]
  have hsame : (s.pin r.pin).lastcd = (encodeFD s.cfg (carrierFq s.cfg) d).cd := by
    rw [hlast, encodeFD_cd_of_ok hok, encodeFD_cd_of_ok hstatus]
  have hretune : tickRetune v s = (applyWord r.pin _ _ (publishing v s), .ok) := retuneOp_of_ok hbound hstatus
  have hquiet : Calls s (publishing v s) [] := by
    have : rearmCalls v r s.cfg = [] := by
      rw [rearmCalls, SlotRec.commitSwap_of_not_due hnotDue]
      exact if_neg (by rw [hclean]; exact Bool.false_ne_true)
    exact congrArg (s.trace ++ ·) this
  have hword : Calls (publishing v s) (applyWord r.pin _ _ (publishing v s)) (tuneCalls (s.pin r.pin) _) :=
    applyWord_calls r.pin (encodeFD s.cfg (carrierFq s.cfg) d) (publishing v s)
  have hres1 : (BitVec.ofNat 32 d).toNat = d := by
    have := r.duty_lt s.cfg s.env.noise
    rw [BitVec.toNat_ofNat]
    omega
  refine ⟨_, exec_evTick_publish hv hvalid hplaying hdl, ?_⟩
  rw [hretune, State.respond_pin, State.respond_res1, ← hd, hres1, applyWord_pin]
  refine ⟨hsame.symm, ?_⟩
  rw [tuneCalls_of_same_divisor hwen hsame] at hword
  exact hquiet.trans hword

/-- RETUNE reads the channel record and the configuration only (R155). -/
theorem retuneOp_sameEffect (p : PinId) (fq duty : Int) {s s' : State} (hpins : SamePins s s')
    (hcfg : s'.cfg = s.cfg) (hfree : s'.freeCount = s.freeCount) :
    SameEffect s s' (retuneOp p fq duty s) (retuneOp p fq duty s') := by
  cases hb : (s.pin p).bound
  case false =>
    rw [retuneOp_of_unbound hb, retuneOp_of_unbound (by rw [hpins p]; exact hb)]
    exact .of_idle hpins hfree
  have hb' : (s'.pin p).bound = true := by rw [hpins p]; exact hb
  by_cases hok : (encodeFD s.cfg fq duty).st = .ok
  case neg =>
    rw [retuneOp_of_rejected hb hok, retuneOp_of_rejected hb' (by rw [hcfg]; exact hok), hcfg]
    exact .of_idle hpins hfree
  case pos =>
    rw [retuneOp_of_ok hb hok, retuneOp_of_ok hb' (by rw [hcfg]; exact hok), hcfg]
    refine .of_frames hpins (applyWord_frame ..) (applyWord_frame ..) ?_ hfree rfl (applyWord_calls ..) ?_
    · rw [applyWord_pin, applyWord_pin, hpins p]
    · rw [← hpins p]; exact applyWord_calls ..

theorem retuneOp_freeCount (p : PinId) (fq duty : Int) (s : State) :
    (retuneOp p fq duty s).1.freeCount = s.freeCount := by
  rcases retuneOp_cases p fq duty s with ⟨-, h⟩ | ⟨-, -, h⟩ | ⟨-, -, h⟩ <;> rw [h]
  rfl

/-- R222 and R223: the sample the catalogue and the environment determine. -/
theorem sample_eq {c : Config} {w : BitVec 8} {i smp : Nat} {noise : Byte}
    (h : (∃ bytes b, c.waves[w.toNat]? = some (.table bytes) ∧ bytes[i &&& (bytes.length - 1)]? = some b ∧
        smp = b.toNat) ∨ c.waves[w.toNat]? = some .noise ∧ smp = noise.toNat) :
    sample c w i noise = smp := by
  unfold sample wave
  rcases h with ⟨bytes, b, hwave, hbyte, rfl⟩ | ⟨hwave, rfl⟩ <;> rw [List.getD_eq_getElem?_getD, hwave]
  · simp only [Option.getD_some, List.getD_eq_getElem?_getD, hbyte]
  · rfl

/-- R221: the duty, by its rounding bounds. -/
theorem scaleSample_eq_of_bounds {smp scale d : Nat} (hle : 2 * 255 * d ≤ 2 * (smp * scale) + 255)
    (hlt : 2 * (smp * scale) + 255 < 2 * 255 * (d + 1)) : scaleSample smp scale = d :=
  (rdiv_eq_iff (by omega)).2 ⟨hle, hlt⟩

/-- A duty operand word that holds a small number is read as it (R85). -/
theorem toInt_ofNat_of_lt {d : Nat} (h : d < 2 ^ 17) : (BitVec.ofNat 32 d).toInt = d := by
  have hnat : (BitVec.ofNat 32 d).toNat = d := by rw [BitVec.toNat_ofNat]; omega
  rw [BitVec.toInt_eq_toNat_of_lt (by omega), hnat]

/-- Settles O47: the RETUNE of the tick does not read what the tick wrote before it. -/
theorem tickPublishesOneStep : Obligations.TickPublishesOneStep := by
  unfold Obligations.TickPublishesOneStep
  intro s v carrier smp d r swap w period dirty hv hvalid hplaying hdl hp hlt hcarrier hsmp hle hlt'
  have hswap : swap = r.swapDue := rfl
  have hcommit : r.commitSwap s.cfg =
      { r with wave := w, pendValid := r.pendValid && !swap, period := period, dirty := dirty } := by
    rw [SlotRec.commitSwap_eq]
    cases hdue : r.swapDue <;> simp [w, period, dirty, hswap, hdue, sint32]
  have hduty : r.duty s.cfg s.env.noise = d := by
    rw [SlotRec.duty, hcommit, sample_eq hsmp]
    exact scaleSample_eq_of_bounds hle hlt'
  have hd : d < 2 ^ 17 := hduty ▸ r.duty_lt s.cfg s.env.noise
  have hretune := exec_retune_of_lt hp carrier (BitVec.ofNat 32 d)
  rw [toInt_eq_carrierFq hlt hcarrier, toInt_ofNat_of_lt hd] at hretune
  have htick := exec_evTick_publish hv hvalid hplaying hdl
  have hown := tickRetune_slot v s
  have hframe := tickRetune_frame v s
  have heffect : SameEffect s (publishing v s) (retuneOp r.pin (carrierFq s.cfg) d s) (tickRetune v s) := by
    rw [tickRetune, hduty]
    exact retuneOp_sameEffect r.pin (carrierFq s.cfg) d (fun _ => rfl) rfl rfl
  have hfree : (tickRetune v s).1.freeCount = s.freeCount := retuneOp_freeCount ..
  rw [hduty] at htick
  generalize tickRetune v s = ticked at htick hown hframe heffect hfree
  refine ⟨_, _, hretune, htick, ⟨rfl, congrArg Status.word heffect.status, rfl⟩, hframe.samePort, heffect.pins,
    fun u hu => ?others, hfree, fun calls hcalls => ?calls, ?own⟩
  case others => exact (hframe.sameSlots u).trans (State.setSlot_slot_ne _ hu _)
  case calls =>
    have hrearm : Calls s (publishing v s) (if dirty then [.rearm period v] else []) := by
      rw [Calls, publishing, State.setSlot_trace, State.emit_trace, rearmCalls, hcommit]
    exact hrearm.trans (heffect.calls calls hcalls)
  case own => rw [State.respond_slot, hown, SlotRec.ticked, hcommit]; rfl

/-! ### The glitch-free swap -/

/-- From `r` to `r'` at most the index, the dirty flag and the timer's interval changed. -/
def SameButStep (r r' : SlotRec) : Prop :=
  r' = { r with index := r'.index, dirty := r'.dirty, tmrInterval := r'.tmrInterval }

theorem SameButStep.trans {r r' r'' : SlotRec} (h : SameButStep r r') (k : SameButStep r' r'') :
    SameButStep r r'' := by
  rw [SameButStep] at h k ⊢
  rw [k, h]

/-- A tick that commits no swap. -/
theorem SlotRec.ticked_sameButStep {r : SlotRec} (h : ¬(r.index = 0 ∧ r.pendValid = true)) (c : Config) :
    SameButStep r (r.ticked c) := by
  rw [SameButStep, ticked, commitSwap_of_not_due h]

/-- One tick of a run: the slot's record and the duty answered (R220). -/
theorem tick_under {v : SlotId} {s : State} (hv : v.toNat < s.cfg.nSlots) (hvalid : (s.slot v).valid = true)
    (hplaying : (s.slot v).playing = true) {e : Env}
    (hdl : ¬((s.slot v).dlValid = true ∧ (s.slot v).dl ≤ e.now)) :
    ∃ t, exec (.evTick v) { s with env := e } = .next t ∧ t.cfg = s.cfg ∧
      t.slot v = (s.slot v).ticked s.cfg ∧ t.res1 = BitVec.ofNat 32 ((s.slot v).duty s.cfg e.noise) := by
  obtain ⟨hcfg, -⟩ := (tickRetune_frame v { s with env := e }).samePort
  exact ⟨_, exec_evTick_publish (s := { s with env := e }) hv hvalid hplaying hdl, hcfg,
    tickRetune_slot v { s with env := e }, rfl⟩

theorem ticks_cons {v : SlotId} {e : Env} {s t : State} (h : exec (.evTick v) { s with env := e } = .next t)
    (es : List Env) : ticks v (e :: es) s = ticks v es t := by
  rw [ticks, h]

theorem ticks_append_singleton {v : SlotId} {es : List Env} {s t : State} (h : ticks v es s = some t) (e : Env) :
    ticks v (es ++ [e]) s = ticks v [e] t := by
  induction es generalizing s with
  | nil => rw [List.nil_append, Option.some.inj h]
  | cons x es ih =>
    rw [List.cons_append, ticks]
    rw [ticks] at h
    cases hexec : exec (.evTick v) { s with env := x } with
    | next u => rw [hexec] at h; exact ih h
    | fault f => rw [hexec] at h; cases h
    | refused f => rw [hexec] at h; cases h

/-- The index `k` steps into a table, which wraps at its end. -/
def AtStep (c : Config) (r : SlotRec) (k : Nat) : Prop := r.index.toNat = k % waveSize c r.wave

theorem AtStep.index_ne_zero {c : Config} {r : SlotRec} {k : Nat} (h : AtStep c r k) (hpos : 0 < k)
    (hlt : k < waveSize c r.wave) : r.index ≠ 0 := by
  intro hzero
  rw [AtStep, hzero, Nat.mod_eq_of_lt hlt] at h
  change 0 = k at h
  omega

/-- A tick off the wrap point keeps the waveform and advances by one (R224, R225). -/
theorem AtStep.ticked {c : Config} (hc : configLegal c = true) {r : SlotRec} {k : Nat} (h : AtStep c r k)
    (hne : r.index ≠ 0) : AtStep c (r.ticked c) (k + 1) := by
  have hcommit : r.commitSwap c = r := SlotRec.commitSwap_of_not_due (fun ⟨hzero, _⟩ => hne hzero) c
  rw [AtStep] at h ⊢
  rw [SlotRec.ticked_index, SlotRec.ticked_wave, hcommit, nextIndex_toNat hc, h, Nat.mod_add_mod]

/-- A run of ticks that ends at or before the wrap keeps the record but for the steps. -/
theorem ticks_to_wrap {v : SlotId} (es : List Env) {s : State} {k : Nat} (hc : configLegal s.cfg = true)
    (hv : v.toNat < s.cfg.nSlots) (hvalid : (s.slot v).valid = true) (hplaying : (s.slot v).playing = true)
    (hpos : 0 < k) (hk : AtStep s.cfg (s.slot v) k) (hlen : k + es.length ≤ waveSize s.cfg (s.slot v).wave)
    (hdl : ∀ x ∈ es, ¬((s.slot v).dlValid = true ∧ (s.slot v).dl ≤ x.now)) :
    ∃ t, ticks v es s = some t ∧ t.cfg = s.cfg ∧ SameButStep (s.slot v) (t.slot v) ∧
      AtStep s.cfg (t.slot v) (k + es.length) := by
  induction es generalizing s k with
  | nil => exact ⟨s, rfl, rfl, rfl, hk⟩
  | cons e es ih =>
    rw [List.length_cons] at hlen
    have hne := hk.index_ne_zero hpos (by omega)
    obtain ⟨t, ht, hcfg, hslot, -⟩ := tick_under hv hvalid hplaying (hdl e List.mem_cons_self)
    have hsame : SameButStep (s.slot v) (t.slot v) :=
      hslot ▸ SlotRec.ticked_sameButStep (fun ⟨hzero, _⟩ => hne hzero) s.cfg
    have hkt : AtStep t.cfg (t.slot v) (k + 1) := by rw [hcfg, hslot]; exact hk.ticked hc hne
    have hrest := @ih t (k + 1)
    rw [hcfg, hsame] at hrest
    obtain ⟨u, hu, hcfgu, hsameu, hku⟩ := hrest hc hv hvalid hplaying (Nat.succ_pos k)
      (by rw [← hsame, ← hcfg]; exact hkt) (by change k + 1 + es.length ≤ waveSize s.cfg (s.slot v).wave; omega)
      fun x hx => hdl x (List.mem_cons_of_mem e hx)
    refine ⟨u, (ticks_cons ht es).trans hu, hcfgu, hsame.trans (by rw [hsame]; exact hsameu), ?_⟩
    rw [List.length_cons, ← Nat.add_assoc, Nat.add_right_comm]
    exact hku

/-- Settles O52: the run to the wrap, and the one tick after it. -/
theorem swapIsGlitchFree : Obligations.SwapIsGlitchFree := by
  unfold Obligations.SwapIsGlitchFree
  intro s v es e r k size scaled hc hv hvalid hplaying hpend hpos hk hlen hdl
  have hstart : AtStep s.cfg r k := (Nat.mod_eq_of_lt hk).symm
  obtain ⟨t, ht, hcfg, hsame, hstep⟩ := ticks_to_wrap es hc hv hvalid hplaying hpos hstart
    (show k + es.length ≤ size by omega) fun x hx => hdl x (List.mem_cons_of_mem e hx)
  have hwave : (t.slot v).wave = r.wave := by rw [hsame]
  have hpendt : (t.slot v).pendValid = true := by rw [hsame]; exact hpend
  have hscale : (t.slot v).scale = r.scale := by rw [hsame]
  have hindex : (t.slot v).index.toNat = (k + es.length) % size := by rw [hstep, hwave]
  have hlast : ∃ u, exec (.evTick v) { t with env := e } = .next u ∧ u.cfg = t.cfg ∧
      u.slot v = (t.slot v).ticked t.cfg ∧ u.res1 = BitVec.ofNat 32 ((t.slot v).duty t.cfg e.noise) := by
    refine tick_under (hcfg ▸ hv) ?_ ?_ ?_ <;> rw [hsame]
    · exact hvalid
    · exact hplaying
    · exact hdl e List.mem_cons_self
  obtain ⟨u, hu, -, hslot, hres⟩ := hlast
  have hrun : ticks v (es ++ [e]) s = some u := (ticks_append_singleton ht e).trans (ticks_cons hu [])
  rw [SlotRec.duty, hindex, hscale, hcfg] at hres
  rw [hcfg] at hslot
  refine ⟨t, u, ht, hrun, hwave, hpendt, fun hbefore => ?before, fun hwrap => ?wrap⟩
  case before =>
    have hlt : k + es.length < size := by omega
    have hne : (t.slot v).index ≠ 0 := hstep.index_ne_zero (by omega) (by rw [hwave]; exact hlt)
    have hcommit := SlotRec.commitSwap_of_not_due (fun ⟨hzero, _⟩ => hne hzero) s.cfg
    rw [hcommit, hwave, Nat.mod_eq_of_lt hlt] at hres
    rw [hslot, SlotRec.ticked_wave, hcommit]
    exact ⟨hwave, hres⟩
  case wrap =>
    have hfull : k + es.length = size := by omega
    rw [hfull, Nat.mod_self] at hindex hres
    have hzero : (t.slot v).index = 0 := BitVec.eq_of_toNat_eq hindex
    have hpendWave : (t.slot v).pend = r.pend := by rw [hsame]
    have hcommit := (t.slot v).commitSwap_eq s.cfg
    have hdue : (t.slot v).swapDue = true := by rw [SlotRec.swapDue, hzero, hpendt]; rfl
    rw [hdue, hpendt, hpendWave] at hcommit
    rw [hcommit] at hres
    rw [hslot, SlotRec.ticked_wave, SlotRec.ticked_pendValid, hcommit]
    exact ⟨hzero, rfl, rfl, hres⟩

end Sys2Proof.Machine
end

section
/-! PROOF. What an operation can do to a state before it answers, said once: at most one channel record is written,
by an operation of the Channel Output Stage, and at most one Speaker record. Every invariant is read off that. -/

namespace Sys2Proof.Machine

/-! ### The writes of a channel record -/

/-- What an operation can make of pin `p`'s channel record, and the calls it makes of the pin and its channel. -/
inductive PinWrite (s : State) (p : PinId) : PinRec → List Call → Prop
  /-- Nothing. -/
  | kept : PinWrite s p (s.pin p) []
  /-- A claim that fails (R253). -/
  | claimFailed : PinWrite s p (s.pin p) [.claimChannel p]
  /-- CH_STOP (R156). -/
  | stopped (hb : (s.pin p).bound = true) :
      PinWrite s p ((s.pin p).released s.freeCount) (stopCalls p (s.pin p) s.cfg.idleLevel)
  /-- EV_ALARM, whose CH_STOP finds the alarm spent (R157). -/
  | alarmed (hb : (s.pin p).bound = true) :
      PinWrite s p ((s.pin p).released s.freeCount)
        (stopCalls p { s.pin p with alarmPend := false } s.cfg.idleLevel)
  /-- EV_ALARM on an unbound pin, which R47 excludes. -/
  | spent (hb : (s.pin p).bound = false) : PinWrite s p { s.pin p with alarmPend := false } []
  /-- RETUNE (R155). -/
  | tuned (fq duty : Int) (hb : (s.pin p).bound = true) (hok : (encodeFD s.cfg fq duty).st = .ok) :
      PinWrite s p { s.pin p with hwen := true, lastcd := (encodeFD s.cfg fq duty).cd }
        (tuneCalls (s.pin p) (encodeFD s.cfg fq duty))
  /-- START on a bound pin (R150). -/
  | played (fq duty : Int) (dur : Word) (hb : (s.pin p).bound = true)
      (hok : (encodeFD s.cfg fq duty).st = .ok) :
      PinWrite s p ((s.pin p).played (encodeFD s.cfg fq duty).cd s.env.now dur)
        (playCalls p (s.pin p) (encodeFD s.cfg fq duty) dur)
  /-- START on an unbound pin that takes channel `h` (R150, R152). -/
  | claimed (fq duty : Int) (dur : Word) (h : Nat) (hb : (s.pin p).bound = false)
      (hclaim : s.claimAnswer = some h) (hok : (encodeFD s.cfg fq duty).st = .ok) :
      PinWrite s p
        (PinRec.played { s.pin p with bound := true, handle := h, hwen := false }
          (encodeFD s.cfg fq duty).cd s.env.now dur)
        ([.claimChannel p, .setEnabled h false] ++
          playCalls p { s.pin p with bound := true, handle := h, hwen := false } (encodeFD s.cfg fq duty) dur)

/-- The operations of the Channel Output Stage that an operation performs, with the state each leaves. -/
inductive ChannelOp (p : PinId) (s : State) : State → Prop
  | start (fq duty : Int) (dur : Word) : ChannelOp p s (startOp p fq duty dur s).1
  | retune (fq duty : Int) : ChannelOp p s (retuneOp p fq duty s).1
  | stop : ChannelOp p s (chStopOp p s).1
  | alarm : ChannelOp p s (alarmOp p s).1

theorem ChannelOp.frame {p : PinId} {s u : State} (h : ChannelOp p s u) : PinFrame p s u := by
  cases h with
  | start fq duty dur => exact startOp_frame ..
  | retune fq duty => exact retuneOp_frame ..
  | stop => exact chStopOp_frame ..
  | alarm => exact alarmOp_frame ..

/-- The write of pin `p`'s record between two states, with its calls. -/
def WritesPin (p : PinId) (s u : State) : Prop := ∃ calls, Calls s u calls ∧ PinWrite s p (u.pin p) calls

theorem WritesPin.refl (p : PinId) (s : State) : WritesPin p s s := ⟨[], (List.append_nil _).symm, .kept⟩

theorem chStopOp_writesPin (p : PinId) (s : State) : WritesPin p s (chStopOp p s).1 := by
  cases hb : (s.pin p).bound
  case false => rw [chStopOp_of_unbound hb]; exact .refl p s
  case true =>
    obtain ⟨-, hpin, hcalls⟩ := chStopOp_of_bound hb
    exact ⟨_, hcalls, hpin ▸ .stopped hb⟩

theorem startOp_writesPin (p : PinId) (fq duty : Int) (dur : Word) (s : State) :
    WritesPin p s (startOp p fq duty dur s).1 := by
  rcases startOp_outcomes p fq duty dur s with
    ⟨-, h⟩ | ⟨-, -, h⟩ | ⟨-, -, -, -, h⟩ | ⟨-, hok, hb, h⟩ |
    ⟨k, -, hok, hb, hclaim, h⟩ <;> rw [h]
  · exact chStopOp_writesPin p s
  · exact .refl p s
  · exact ⟨_, rfl, .claimFailed⟩
  · exact ⟨_, playTone_calls .., playTone_pin p _ dur s ▸ .played fq duty dur hb hok⟩
  · have hpin := playTone_pin p (encodeFD s.cfg fq duty) dur (takeChannel p k s)
    have hcalls := playTone_calls p (encodeFD s.cfg fq duty) dur (takeChannel p k s)
    rw [takeChannel_pin] at hpin hcalls
    have htake : Calls s (takeChannel p k s) [.claimChannel p, .setEnabled k false] := rfl
    exact ⟨_, htake.trans hcalls, hpin ▸ .claimed fq duty dur k hb hclaim hok⟩

theorem retuneOp_writesPin (p : PinId) (fq duty : Int) (s : State) :
    WritesPin p s (retuneOp p fq duty s).1 := by
  rcases retuneOp_cases p fq duty s with ⟨-, h⟩ | ⟨-, -, h⟩ | ⟨hb, hok, h⟩ <;> rw [h]
  · exact .refl p s
  · exact .refl p s
  · exact ⟨_, applyWord_calls .., applyWord_pin p _ _ s ▸ .tuned fq duty hb hok⟩

theorem alarmOp_writesPin (p : PinId) (s : State) : WritesPin p s (alarmOp p s).1 := by
  cases halarm : (s.pin p).alarmPend
  case false =>
    rcases alarmOp_cases p s with ⟨-, h⟩ | ⟨hpending, -⟩
    · rw [h]; exact .refl p s
    · rw [halarm] at hpending; cases hpending
  rw [alarmOp_of_pending halarm]
  have hspent := spendAlarm_pin p s
  cases hb : (s.pin p).bound
  case false =>
    rw [chStopOp_of_unbound (by rw [hspent]; exact hb)]
    exact ⟨[], (List.append_nil _).symm, hspent ▸ .spent hb⟩
  case true =>
    have hb' : ((spendAlarm p s).pin p).bound = true := by rw [hspent]; exact hb
    obtain ⟨-, hpin, hcalls⟩ := chStopOp_of_bound hb'
    rw [hspent] at hpin hcalls
    exact ⟨_, hcalls, hpin ▸ .alarmed hb⟩

theorem ChannelOp.writesPin {p : PinId} {s u : State} (h : ChannelOp p s u) : WritesPin p s u := by
  cases h with
  | start fq duty dur => exact startOp_writesPin ..
  | retune fq duty => exact retuneOp_writesPin ..
  | stop => exact chStopOp_writesPin ..
  | alarm => exact alarmOp_writesPin ..

/-! ### The writes of a Speaker record -/

/-- What an operation can make of slot `v`'s Speaker record. -/
inductive SlotWrite (s : State) (v : SlotId) : Instr → SlotRec → Prop
  /-- SPK_INIT (R180). -/
  | construct {p : PinId} {aff : Bool} {fq vol : Word} (hvalid : (s.slot v).valid = false)
      (hp : p.toNat < s.cfg.nPins) (hfq : 0 < fq.toInt) :
      SlotWrite s v (.spkInit v p aff fq vol) ((s.slot v).construct s.cfg p aff fq vol)
  /-- SPK_SET_FREQ (R183). -/
  | freq {fq : Word} (hfq : 0 < fq.toInt) : SlotWrite s v (.spkSetFreq v fq) ((s.slot v).withFreq s.cfg fq)
  /-- SPK_SET_VOL (R184). -/
  | volume {vol : Word} : SlotWrite s v (.spkSetVol v vol) ((s.slot v).withVolume s.cfg vol.toInt)
  /-- SPK_SET_WAVE (R185). -/
  | wave {w : BitVec 8} (hw : w.toNat < s.cfg.waves.length) :
      SlotWrite s v (.spkSetWave v w) ((s.slot v).withWave s.cfg w)
  /-- SPK_PLAY on a playing slot, with a duration (R186). -/
  | deadline {d : Word} (hplaying : (s.slot v).playing = true) :
      SlotWrite s v (.spkPlay v d) ((s.slot v).withDeadline s.env.now d)
  /-- SPK_PLAY on a playing slot, with none (R186). -/
  | noDeadline {d : Word} (hplaying : (s.slot v).playing = true) :
      SlotWrite s v (.spkPlay v d) { s.slot v with dlValid := false }
  /-- SPK_PLAY on a stopped slot (R186). -/
  | start {d : Word} (hstopped : (s.slot v).playing = false) :
      SlotWrite s v (.spkPlay v d) ((s.slot v).started s.env.now d)
  /-- SPK_STOP, and the EV_TICK that is one (R187, R220). -/
  | stop {i : Instr} (hi : i = .spkStop v ∨ i = .evTick v) (hplaying : (s.slot v).playing = true) :
      SlotWrite s v i (s.slot v).stopped
  /-- EV_TICK that publishes (R220). -/
  | tick (hplaying : (s.slot v).playing = true) : SlotWrite s v (.evTick v) ((s.slot v).ticked s.cfg)

/-- What operation `i` makes of a state before it answers. -/
inductive Effect (i : Instr) (s : State) : State → Prop
  /-- Nothing: an ILLEGAL, a rejected or a no-op operation, ENCODE, and the getters. -/
  | kept : Effect i s s
  /-- A channel operation. -/
  | channel {p : PinId} {u : State} (h : ChannelOp p s u) : Effect i s u
  /-- A Speaker operation that writes its slot's record alone. -/
  | record {v : SlotId} {r : SlotRec} (h : SlotWrite s v i r) : Effect i s (s.setSlot v r)
  /-- SPK_PLAY's start branch (R186). -/
  | play {v : SlotId} {u : State} {r : SlotRec} (hu : ChannelOp (s.slot v).pin s u) (h : SlotWrite s v i r) :
      Effect i s ((u.emit [.scheduleRepeating (s.slot v).period v]).setSlot v r)
  /-- SPK_STOP on a playing slot (R187). -/
  | stop {v : SlotId} {u : State} (h : SlotWrite s v i (s.slot v).stopped)
      (hu : ChannelOp (s.slot v).pin (cancelTimer v s) u) : Effect i s u
  /-- EV_TICK that publishes (R220). -/
  | tick {v : SlotId} {u : State} (hi : i = .evTick v) (h : SlotWrite s v i ((s.slot v).ticked s.cfg))
      (hu : ChannelOp (s.slot v).pin (publishing v s) u) : Effect i s u

/-! ### Every operation has such an effect -/

/-- An effect of `i`, answered. -/
def Answered (i : Instr) (s t : State) : Prop := ∃ u st x y, Effect i s u ∧ t = u.respond st x y

theorem Answered.next {i : Instr} {s u : State} (h : Effect i s u) {st : Status} {x y : Word} :
    Ensures (Answered i s) (.next (u.respond st x y)) := Ensures.next ⟨u, st, x, y, h, rfl⟩

theorem Answered.illegal (i : Instr) (s : State) : Answered i s s.illegal := ⟨s, _, _, _, .kept, rfl⟩

theorem Answered.onPin {i : Instr} {p : PinId} {s : State} {r : State × Status} (h : ChannelOp p s r.1) :
    Ensures (Answered i s) (checkPin p s (answer r)) :=
  .checkPin (.illegal i s) (Answered.next (.channel h))

theorem Answered.onSlot {i : Instr} {v : SlotId} {s : State} {k : Result} (h : Ensures (Answered i s) k) :
    Ensures (Answered i s) (checkSlot v s k) := .checkSlot (.illegal i s) h

theorem execSpkInit_answered (v : SlotId) (p : PinId) (aff : Bool) (fq vol : Word) (s : State) :
    Ensures (Answered (.spkInit v p aff fq vol) s) (execSpkInit v p aff fq vol s) := by
  unfold execSpkInit; split
  case isTrue h =>
    obtain ⟨-, hp, hvalid, hfq⟩ := h
    exact Answered.next (.record (.construct hvalid hp hfq))
  case isFalse => exact .next (.illegal ..)

theorem execSpkSetFreq_answered (v : SlotId) (fq : Word) (s : State) :
    Ensures (Answered (.spkSetFreq v fq) s) (execSpkSetFreq v fq s) := by
  refine Answered.onSlot ?_
  dsimp only; split
  case isTrue => exact Answered.next .kept
  case isFalse h =>
    obtain ⟨-, hfq⟩ := not_or.1 h
    exact Answered.next (.record (.freq (not_le.1 hfq)))

theorem execSpkSetVol_answered (v : SlotId) (vol : Word) (s : State) :
    Ensures (Answered (.spkSetVol v vol) s) (execSpkSetVol v vol s) := by
  refine Answered.onSlot ?_
  dsimp only; split
  case isTrue => exact Answered.next .kept
  case isFalse => exact Answered.next (.record .volume)

theorem execSpkSetWave_answered (v : SlotId) (w : BitVec 8) (s : State) :
    Ensures (Answered (.spkSetWave v w) s) (execSpkSetWave v w s) := by
  by_cases h : (v.toNat < s.cfg.nSlots ∧ (s.slot v).valid = true) ∧ w.toNat < s.cfg.waves.length
  case pos =>
    obtain ⟨⟨hv, hvalid⟩, hw⟩ := h
    have hexec : execSpkSetWave v w s = _ := exec_spkSetWave_of_lt hv hvalid hw
    rw [hexec]
    exact Answered.next (.record (.wave hw))
  case neg =>
    have hrefused : Refused s (.spkSetWave v w) := by
      simp only [Refused, SlotRefused, Instr.wf, Bool.and_eq_false_iff, decide_eq_false_iff_not]
      rw [← Bool.not_eq_true]
      tauto
    rw [execSpkSetWave_of_refused hrefused]
    exact .next (.illegal ..)

theorem execSpkPlay_answered (v : SlotId) (d : Word) (s : State) :
    Ensures (Answered (.spkPlay v d) s) (execSpkPlay v d s) := by
  refine Answered.onSlot ?_
  dsimp only; split
  case isTrue hplaying =>
    split
    · exact Answered.next (.record (.deadline hplaying))
    · exact Answered.next (.record (.noDeadline hplaying))
  case isFalse hstopped =>
    rw [spkPlayStart_eq]
    exact Answered.next (.play (.start ..) (.start (Bool.not_eq_true _ ▸ hstopped)))

theorem execSpkStop_answered {i : Instr} {v : SlotId} (hi : i = .spkStop v ∨ i = .evTick v) (s : State) :
    Ensures (Answered i s) (execSpkStop v s) := by
  refine Answered.onSlot ?_
  cases hplaying : (s.slot v).playing
  case false => rw [spkStopOp_of_stopped hplaying]; exact Answered.next .kept
  case true =>
    rw [spkStopOp_of_playing hplaying]
    exact Answered.next (.stop (.stop hi hplaying) .stop)

/-- A tick is a no-op, SPK_STOP, or publishes (R220). -/
theorem execEvTick_answered (v : SlotId) (s : State) : Ensures (Answered (.evTick v) s) (execEvTick v s) := by
  by_cases h : v.toNat < s.cfg.nSlots ∧ (s.slot v).valid = true
  case neg => rw [execEvTick, checkSlot_of_not h]; exact .next (.illegal ..)
  obtain ⟨hv, hvalid⟩ := h
  cases hplaying : (s.slot v).playing
  case false => rw [execEvTick_of_stopped hplaying]; exact Answered.onSlot (Answered.next .kept)
  cases hdl : (s.slot v).deadlinePassed s.env.now
  case true =>
    rw [execEvTick_of_deadlinePassed hplaying hdl]
    exact execSpkStop_answered (.inr rfl) s
  case false =>
    rw [← Bool.not_eq_true, SlotRec.deadlinePassed_iff] at hdl
    rw [← exec_evTick, exec_evTick_publish hv hvalid hplaying hdl]
    exact Answered.next (.tick rfl (.tick hplaying) (.retune ..))

theorem exec_answered (i : Instr) (s : State) : Ensures (Answered i s) (exec i s) := by
  cases i with
  | encode fq duty => exact Answered.next .kept
  | start p fq duty dur => exact Answered.onPin (.start ..)
  | retune p fq duty => exact Answered.onPin (.retune ..)
  | chStop p => exact Answered.onPin .stop
  | spkInit v p aff fq vol => exact execSpkInit_answered v p aff fq vol s
  | spkSetFreq v fq => exact execSpkSetFreq_answered v fq s
  | spkSetVol v vol => exact execSpkSetVol_answered v vol s
  | spkSetWave v w => exact execSpkSetWave_answered v w s
  | spkPlay v d => exact execSpkPlay_answered v d s
  | spkStop v => exact execSpkStop_answered (.inl rfl) s
  | spkGetFreq v => exact Answered.onSlot (Answered.next .kept)
  | spkGetVol v => exact Answered.onSlot (Answered.next .kept)
  | spkIsPlaying v => exact Answered.onSlot (Answered.next .kept)
  | evTick v => exact execEvTick_answered v s
  | evAlarm p => exact Answered.onPin .alarm

/-- What an operation that answers a next state did, the response apart. -/
theorem exec_effect {i : Instr} {s t : State} (h : exec i s = .next t) :
    ∃ u st x y, Effect i s u ∧ t = u.respond st x y := exec_answered i s t h

/-! ### What the effect leaves -/

/-- Every Speaker record is kept, or is the one written. -/
theorem Effect.slot {i : Instr} {s u : State} (h : Effect i s u) (w : SlotId) :
    u.slot w = s.slot w ∨ SlotWrite s w i (u.slot w) := by
  have written {v : SlotId} {r : SlotRec} {s' : State} (hothers : SameSlots s s') (hr : SlotWrite s v i r) :
      (s'.setSlot v r).slot w = s.slot w ∨ SlotWrite s w i ((s'.setSlot v r).slot w) := by
    by_cases hw : w = v
    · subst hw; rw [State.setSlot_slot_self]; exact .inr hr
    · rw [State.setSlot_slot_ne _ hw]; exact .inl (hothers w)
  cases h with
  | kept => exact .inl rfl
  | channel h => exact .inl (h.frame.sameSlots w)
  | record h => exact written (fun _ => rfl) h
  | @play v u r hu h =>
    exact written (s' := u.emit [.scheduleRepeating (s.slot v).period v]) hu.frame.sameSlots h
  | @stop v u h hu =>
    rw [hu.frame.sameSlots w]
    exact written (s' := s.emit [.cancelRepeating v]) (fun _ => rfl) h
  | @tick v u _ h hu =>
    rw [hu.frame.sameSlots w]
    exact written (s' := s.emit (rearmCalls v (s.slot v) s.cfg)) (fun _ => rfl) h

/-- Is a call one to the repeating timer? -/
def Call.onTimer : Call → Bool
  | .scheduleRepeating _ _ | .cancelRepeating _ | .rearm _ _ => true
  | _ => false

/-- The port stays, one channel record at most is written, and the calls that are not the timer's are those of the
write. -/
def ChannelWrite (s u : State) : Prop :=
  ∃ p calls all, SamePort s u ∧ SamePinsBut p s u ∧ PinWrite s p (u.pin p) calls ∧ Calls s u all ∧
    ∀ c ∈ all, c ∈ calls ∨ c.onTimer = true

theorem ChannelWrite.of_op {p : PinId} {s u : State} (h : ChannelOp p s u) : ChannelWrite s u := by
  obtain ⟨calls, hcalls, hwrite⟩ := h.writesPin
  exact ⟨p, calls, calls, h.frame.samePort, h.frame.samePinsBut, hwrite, hcalls, fun _ => .inl⟩

/-- Pin 0 stands for none: its record is kept too. -/
theorem ChannelWrite.refl (s : State) : ChannelWrite s s :=
  ⟨0, [], [], .refl s, fun _ _ => rfl, .kept, (List.append_nil _).symm, nofun⟩

/-- The channel operations do not read what the timer calls and the Speaker records add. -/
theorem PinWrite.of_setSlot_emit {s : State} {pre : List Call} {v : SlotId} {r : SlotRec} {p : PinId}
    {r' : PinRec} {calls : List Call} (h : PinWrite ((s.emit pre).setSlot v r) p r' calls) :
    PinWrite s p r' calls := by
  cases h with
  | kept => exact .kept
  | claimFailed => exact .claimFailed
  | stopped hb => exact .stopped hb
  | alarmed hb => exact .alarmed hb
  | spent hb => exact .spent hb
  | tuned fq duty hb hok => exact .tuned fq duty hb hok
  | played fq duty dur hb hok => exact .played fq duty dur hb hok
  | claimed fq duty dur h hb hclaim hok => exact .claimed fq duty dur h hb hclaim hok

/-- A timer call and a Speaker record before it. -/
theorem ChannelWrite.after_timer {s u : State} {pre : List Call} {v : SlotId} {r : SlotRec}
    (h : ChannelWrite ((s.emit pre).setSlot v r) u) (hpre : ∀ c ∈ pre, c.onTimer = true) : ChannelWrite s u := by
  obtain ⟨p, calls, all, hport, hothers, hwrite, hall, honly⟩ := h
  have hbefore : Calls s ((s.emit pre).setSlot v r) pre := rfl
  refine ⟨p, calls, pre ++ all, hport, hothers, hwrite.of_setSlot_emit, hbefore.trans hall, fun c hc => ?_⟩
  rcases List.mem_append.1 hc with hc | hc
  · exact .inr (hpre c hc)
  · exact honly c hc

/-- A timer call and a Speaker record after it. -/
theorem ChannelWrite.before_timer {s u : State} (h : ChannelWrite s u) {post : List Call} {v : SlotId}
    {r : SlotRec} (hpost : ∀ c ∈ post, c.onTimer = true) : ChannelWrite s ((u.emit post).setSlot v r) := by
  obtain ⟨p, calls, all, hport, hothers, hwrite, hall, honly⟩ := h
  have hafter : Calls u ((u.emit post).setSlot v r) post := rfl
  refine ⟨p, calls, all ++ post, hport, hothers, hwrite, hall.trans hafter, fun c hc => ?_⟩
  rcases List.mem_append.1 hc with hc | hc
  · exact honly c hc
  · exact .inr (hpost c hc)

theorem rearmCalls_onTimer (v : SlotId) (r : SlotRec) (c : Config) :
    ∀ x ∈ rearmCalls v r c, x.onTimer = true := by
  intro x hx
  unfold rearmCalls at hx
  split at hx
  · rw [List.mem_singleton.1 hx]; rfl
  · cases hx

theorem Effect.channelWrite {i : Instr} {s u : State} (h : Effect i s u) : ChannelWrite s u := by
  cases h with
  | kept => exact .refl s
  | channel h => exact .of_op h
  | record => simpa only [State.emit_nil] using (ChannelWrite.refl s).before_timer (post := []) nofun
  | play hu => exact (ChannelWrite.of_op hu).before_timer (by simp [Call.onTimer])
  | @stop v u _ hu =>
    exact (ChannelWrite.of_op hu).after_timer (s := s) (pre := [.cancelRepeating v]) (by simp [Call.onTimer])
  | tick _ _ hu => exact (ChannelWrite.of_op hu).after_timer (rearmCalls_onTimer _ _ _)

/-- Settles O12, by the one channel write that every operation's effect is. -/
theorem operationsOnlyAppendCalls : Obligations.OperationsOnlyAppendCalls := by
  unfold Obligations.OperationsOnlyAppendCalls
  intro i s t h
  obtain ⟨u, st, x, y, heffect, rfl⟩ := exec_effect h
  obtain ⟨-, -, all, hport, -, -, hall, -⟩ := heffect.channelWrite
  exact ⟨hport, all, hall⟩

/-! ### The repeating timer's interval (R226) -/

theorem tuneCalls_not_onTimer (r : PinRec) (e : Encoded) : ∀ c ∈ tuneCalls r e, c.onTimer = false := by
  unfold tuneCalls
  split <;> split <;> simp [Call.onTimer]

theorem playCalls_not_onTimer (p : PinId) (r : PinRec) (e : Encoded) (dur : Word) :
    ∀ c ∈ playCalls p r e dur, c.onTimer = false := by
  have htune := tuneCalls_not_onTimer r e
  unfold playCalls
  simp only [List.forall_mem_append]
  refine ⟨⟨?_, htune⟩, ?_⟩ <;> split <;> simp [Call.onTimer]

theorem stopCalls_not_onTimer (p : PinId) (r : PinRec) (idle : Bool) :
    ∀ c ∈ stopCalls p r idle, c.onTimer = false := by
  unfold stopCalls
  split <;> simp [Call.onTimer]

/-- The channel operations make no call to the repeating timer (R258). -/
theorem PinWrite.not_onTimer {s : State} {p : PinId} {r : PinRec} {calls : List Call}
    (h : PinWrite s p r calls) : ∀ c ∈ calls, c.onTimer = false := by
  cases h with
  | kept => exact nofun
  | claimFailed => simp [Call.onTimer]
  | stopped => exact stopCalls_not_onTimer _ _ _
  | alarmed => exact stopCalls_not_onTimer _ _ _
  | spent => exact nofun
  | tuned => exact tuneCalls_not_onTimer _ _
  | played => exact playCalls_not_onTimer _ _ _ _
  | claimed fq duty dur h =>
    rw [List.forall_mem_append]
    exact ⟨by simp [Call.onTimer], playCalls_not_onTimer _ _ _ _⟩

theorem ChannelOp.not_onTimer {p : PinId} {s u : State} (h : ChannelOp p s u) :
    ∃ calls, Calls s u calls ∧ ∀ c ∈ calls, c.onTimer = false := by
  obtain ⟨calls, hcalls, hwrite⟩ := h.writesPin
  exact ⟨calls, hcalls, hwrite.not_onTimer⟩

/-- A call that re-arms is one of steps 3 and 4 of a tick that publishes. -/
theorem Effect.of_rearm {i : Instr} {s u : State} {calls : List Call} {iv : Word} {v : SlotId}
    (h : Effect i s u) (hcalls : Calls s u calls) (hmem : Call.rearm iv v ∈ calls) :
    i = .evTick v ∧ u.slot v = (s.slot v).ticked s.cfg ∧ Call.rearm iv v ∈ rearmCalls v (s.slot v) s.cfg := by
  have quiet {xs : List Call} (hxs : ∀ c ∈ xs, c.onTimer = false) : Call.rearm iv v ∉ xs := fun hx =>
    Bool.noConfusion (hxs _ hx)
  cases h with
  | kept =>
    rw [hcalls.unique (List.append_nil _).symm] at hmem; cases hmem
  | channel h =>
    obtain ⟨xs, hxs, hquiet⟩ := h.not_onTimer
    exact absurd (hcalls.unique hxs ▸ hmem) (quiet hquiet)
  | record =>
    rw [hcalls.unique (List.append_nil _).symm] at hmem; cases hmem
  | @play w u r hu =>
    obtain ⟨xs, hxs, hquiet⟩ := hu.not_onTimer
    rw [hcalls.unique (hxs.trans (u := u.emit [.scheduleRepeating (s.slot w).period w]) rfl)] at hmem
    rcases List.mem_append.1 hmem with hmem | hmem
    · exact absurd hmem (quiet hquiet)
    · cases List.mem_singleton.1 hmem
  | @stop w u _ hu =>
    obtain ⟨xs, hxs, hquiet⟩ := hu.not_onTimer
    rw [hcalls.unique (Calls.trans (t := cancelTimer w s) (xs := [.cancelRepeating w]) rfl hxs)] at hmem
    rcases List.mem_append.1 hmem with hmem | hmem
    · cases List.mem_singleton.1 hmem
    · exact absurd hmem (quiet hquiet)
  | @tick w u hi _ hu =>
    obtain ⟨xs, hxs, hquiet⟩ := hu.not_onTimer
    rw [hcalls.unique (Calls.trans (t := publishing w s) (xs := rearmCalls w (s.slot w) s.cfg) rfl hxs)] at hmem
    rcases List.mem_append.1 hmem with hmem | hmem
    case inr => exact absurd hmem (quiet hquiet)
    obtain rfl : v = w := by
      unfold rearmCalls at hmem
      split at hmem
      · cases List.mem_singleton.1 hmem; rfl
      · cases hmem
    exact ⟨hi, (hu.frame.sameSlots v).trans (State.setSlot_slot_self ..), hmem⟩

/-- The re-arm of a tick is at the period the slot then has, which becomes the interval (R220, R226). -/
theorem ticked_of_rearm {v : SlotId} {r : SlotRec} {c : Config} {iv : Word}
    (h : Call.rearm iv v ∈ rearmCalls v r c) :
    iv = (r.ticked c).period ∧ (r.ticked c).tmrInterval = iv ∧ (r.ticked c).dirty = false := by
  unfold rearmCalls at h
  split at h
  case isTrue hdirty =>
    cases List.mem_singleton.1 h
    exact ⟨rfl, if_pos hdirty, rfl⟩
  case isFalse => cases h

theorem SlotRec.withWave_tmrInterval (r : SlotRec) (c : Config) (w : BitVec 8) :
    (r.withWave c w).tmrInterval = r.tmrInterval := by
  cases h : r.playing
  · rw [withWave_of_stopped h]; rfl
  · rw [withWave_of_playing h]

/-- Of the writes of a playing slot's record only the tick's changes the interval. -/
theorem SlotWrite.eq_evTick {s : State} {v : SlotId} {i : Instr} {r : SlotRec} (h : SlotWrite s v i r)
    (hvalid : (s.slot v).valid = true) (hplaying : (s.slot v).playing = true)
    (hchanged : r.tmrInterval ≠ (s.slot v).tmrInterval) : i = .evTick v := by
  cases h with
  | construct hnew => rw [hvalid] at hnew; cases hnew
  | freq => exact absurd rfl hchanged
  | volume => exact absurd rfl hchanged
  | wave => exact absurd (SlotRec.withWave_tmrInterval ..) hchanged
  | deadline => exact absurd rfl hchanged
  | noDeadline => exact absurd rfl hchanged
  | start hstopped => rw [hplaying] at hstopped; cases hstopped
  | stop => exact absurd rfl hchanged
  | tick => rfl

/-- Settles O50, by the calls and the record of the effect. -/
theorem rearmOnlyFromTheTick : Obligations.RearmOnlyFromTheTick := by
  unfold Obligations.RearmOnlyFromTheTick
  intro i s t v calls h hcalls
  obtain ⟨u, st, x, y, heffect, rfl⟩ := exec_effect h
  refine ⟨fun iv hmem => ?rearm, fun hvalid hplaying hchanged => ?interval⟩
  case rearm =>
    obtain ⟨hi, hslot, hrearm⟩ := heffect.of_rearm hcalls hmem
    rw [State.respond_slot, hslot]
    exact ⟨hi, ticked_of_rearm hrearm⟩
  case interval =>
    rcases heffect.slot v with hsame | hwrite
    · exact absurd (congrArg SlotRec.tmrInterval hsame) hchanged
    · exact hwrite.eq_evTick hvalid hplaying hchanged

end Sys2Proof.Machine
end

section
/-! PROOF. Reset and the invariants (R47, R24, R26, R30 to R37, R158, R161): each write of a channel record and of a
Speaker record keeps them, so every operation does, and so every step. -/

namespace Sys2Proof.Machine

/-! ### Reset -/

/-- Settles O55, by the fields of the reset state and of its records. -/
theorem resetValues : Obligations.ResetValues := by
  unfold Obligations.ResetValues
  refine fun c => ⟨rfl, rfl, rfl, rfl, rfl, fun p => ?_, fun v => ?_⟩
  · rw [State.resetOf_pin]; exact ⟨rfl, rfl, rfl⟩
  · rw [State.resetOf_slot]

/-- Settles O56: after reset no pin is bound, no alarm is pending and no slot is constructed. -/
theorem resetMeetsTheInvariants : Obligations.ResetMeetsTheInvariants := by
  unfold Obligations.ResetMeetsTheInvariants
  intro c
  refine ⟨⟨fun p => ?_, fun v => ?_⟩, fun p => ?_, fun v => ?_, fun p q hp => ?_⟩
  · rw [State.resetOf_pin]; exact ⟨nofun, nofun⟩
  · rw [State.resetOf_slot]; exact nofun
  · rw [State.resetOf_pin]; exact nofun
  · rw [State.resetOf_slot]; exact nofun
  · rw [State.resetOf_pin] at hp; cases hp

/-! ### The channel records -/

/-- R47: every write leaves a bound channel enabled, and an alarm only where a channel is bound. -/
theorem PinWrite.consistent {s : State} {p : PinId} {r : PinRec} {calls : List Call}
    (h : PinWrite s p r calls) (hp : PinConsistent (s.pin p)) : PinConsistent r := by
  obtain ⟨henabled, halarm⟩ := hp
  cases h with
  | kept => exact ⟨henabled, halarm⟩
  | claimFailed => exact ⟨henabled, halarm⟩
  | stopped => exact ⟨nofun, nofun⟩
  | alarmed => exact ⟨nofun, nofun⟩
  | spent => exact ⟨henabled, nofun⟩
  | tuned => exact ⟨fun _ => rfl, halarm⟩
  | played fq duty dur hb => exact ⟨fun _ => rfl, fun _ => hb⟩
  | claimed => exact ⟨fun _ => rfl, fun _ => rfl⟩

/-- A divisor that Encode returns with `OK` (R26, R135). -/
theorem encodeFD_cd_range {c : Config} (hc : c.FormatsLegal) {fq duty : Int}
    (hok : (encodeFD c fq duty).st = .ok) :
    256 ≤ (encodeFD c fq duty).cd.toNat ∧ (encodeFD c fq duty).cd.toNat ≤ 16777216 := by
  obtain ⟨hrange, -⟩ := clockDivisorRange c fq duty hc
  obtain ⟨hlo, hhi, -⟩ := hrange hok
  exact ⟨hlo, hhi⟩

/-- R24 and R26: a write binds a handle of the pool, and a divisor that Encode returns. -/
theorem PinWrite.inRange {s : State} (hc : s.cfg.FormatsLegal) {p : PinId} {r : PinRec} {calls : List Call}
    (h : PinWrite s p r calls) (hp : PinInRange s.cfg (s.pin p)) : PinInRange s.cfg r := by
  have handle_lt (hb : (s.pin p).bound = true) : (s.pin p).handle < s.cfg.nChannels := by
    obtain ⟨hlt, -⟩ := hp hb
    exact hlt
  cases h with
  | kept => exact hp
  | claimFailed => exact hp
  | stopped => exact nofun
  | alarmed => exact nofun
  | spent => exact hp
  | tuned fq duty hb hok => exact fun _ => ⟨handle_lt hb, encodeFD_cd_range hc hok⟩
  | played fq duty dur hb hok => exact fun _ => ⟨handle_lt hb, encodeFD_cd_range hc hok⟩
  | claimed fq duty dur k hb hclaim hok =>
    obtain ⟨-, hlt, -⟩ := claimAnswer_eq_some.1 hclaim
    exact fun _ => ⟨hlt, encodeFD_cd_range hc hok⟩

/-- A bound channel's handle after a write is the one it had, or a lawful claim's (R158). -/
theorem PinWrite.handle {s : State} {p : PinId} {r : PinRec} {calls : List Call} (h : PinWrite s p r calls)
    (hb : r.bound = true) :
    ((s.pin p).bound = true ∧ r.handle = (s.pin p).handle) ∨ s.claimAnswer = some r.handle := by
  cases h with
  | kept => exact .inl ⟨hb, rfl⟩
  | claimFailed => exact .inl ⟨hb, rfl⟩
  | stopped => cases hb
  | alarmed => cases hb
  | spent => exact .inl ⟨hb, rfl⟩
  | tuned => exact .inl ⟨hb, rfl⟩
  | played => exact .inl ⟨hb, rfl⟩
  | claimed fq duty dur k _ hclaim => exact .inr hclaim

/-- R158: no other bound pin holds the handle. -/
theorem PinWrite.handle_ne {s : State} (hdistinct : HandlesDistinct s) {p q : PinId} {r : PinRec}
    {calls : List Call} (h : PinWrite s p r calls) (hb : r.bound = true) (hq : q ≠ p)
    (hbq : (s.pin q).bound = true) : (s.pin q).handle ≠ r.handle := by
  rcases h.handle hb with ⟨hbp, hsame⟩ | hclaim
  · rw [hsame]
    exact fun heq => hq (hdistinct q p hbq hbp heq)
  · obtain ⟨-, -, -, hfree⟩ := claimAnswer_eq_some.1 hclaim
    exact holdsHandle_eq_false.1 hfree q hbq

/-! ### The clock divisor (R161) -/

theorem setClockDivisor_mem_tuneCalls {r : PinRec} {e : Encoded} {h : Nat} {cd : ClkDiv}
    (hmem : Call.setClockDivisor h cd ∈ tuneCalls r e) :
    h = r.handle ∧ cd = e.cd ∧ (r.hwen = true → e.cd ≠ r.lastcd) := by
  rw [tuneCalls_eq] at hmem
  split at hmem
  case isTrue hneeds =>
    have : Call.setClockDivisor h cd = .setClockDivisor r.handle e.cd := by
      split at hmem <;> simpa using hmem
    obtain ⟨rfl, rfl⟩ := Call.setClockDivisor.inj this
    exact ⟨rfl, rfl, fun hwen => hneeds.resolve_left (by rw [hwen]; exact nofun)⟩
  case isFalse => split at hmem <;> simp at hmem

theorem setClockDivisor_mem_playCalls {p : PinId} {r : PinRec} {e : Encoded} {dur : Word} {h : Nat} {cd : ClkDiv}
    (hmem : Call.setClockDivisor h cd ∈ playCalls p r e dur) : Call.setClockDivisor h cd ∈ tuneCalls r e := by
  unfold playCalls at hmem
  simp only [List.mem_append] at hmem
  rcases hmem with (hmem | hmem) | hmem
  · split at hmem <;> simp at hmem
  · exact hmem
  · split at hmem <;> simp at hmem

theorem setClockDivisor_not_mem_stopCalls (p : PinId) (r : PinRec) (idle : Bool) (h : Nat) (cd : ClkDiv) :
    Call.setClockDivisor h cd ∉ stopCalls p r idle := by
  unfold stopCalls
  split <;> simp

/-- A divisor call of a write goes to the handle the pin then holds and becomes its last, and it changes the last
of a channel that was bound and enabled (R153). -/
theorem PinWrite.setClockDivisor {s : State} {p : PinId} {r : PinRec} {calls : List Call} {h : Nat} {cd : ClkDiv}
    (hwrite : PinWrite s p r calls) (hmem : Call.setClockDivisor h cd ∈ calls) :
    r.bound = true ∧ r.handle = h ∧ r.lastcd = cd ∧
      ((s.pin p).bound = true → (s.pin p).hwen = true → cd ≠ (s.pin p).lastcd) := by
  cases hwrite with
  | kept => cases hmem
  | claimFailed => simp at hmem
  | stopped => exact absurd hmem (setClockDivisor_not_mem_stopCalls _ _ _ _ _)
  | alarmed => exact absurd hmem (setClockDivisor_not_mem_stopCalls _ _ _ _ _)
  | spent => cases hmem
  | tuned fq duty hb =>
    obtain ⟨rfl, rfl, hchanges⟩ := setClockDivisor_mem_tuneCalls hmem
    exact ⟨hb, rfl, rfl, fun _ => hchanges⟩
  | played fq duty dur hb =>
    obtain ⟨rfl, rfl, hchanges⟩ := setClockDivisor_mem_tuneCalls (setClockDivisor_mem_playCalls hmem)
    exact ⟨hb, rfl, rfl, fun _ => hchanges⟩
  | claimed fq duty dur k hb =>
    replace hmem := (List.mem_append.1 hmem).resolve_left (by simp)
    obtain ⟨rfl, rfl, -⟩ := setClockDivisor_mem_tuneCalls (setClockDivisor_mem_playCalls hmem)
    exact ⟨rfl, rfl, rfl, fun hbound => by rw [hb] at hbound; cases hbound⟩

/-- Settles O33: the handle names the pin that was written, and its channel was enabled. -/
theorem divisorIsWrittenOnlyOnChange : Obligations.DivisorIsWrittenOnlyOnChange := by
  unfold Obligations.DivisorIsWrittenOnlyOnChange
  intro s t i p calls cd hconsistent hrange hexec hcalls hb hbt hmem
  obtain ⟨hpins, -⟩ := hconsistent
  obtain ⟨-, -, hdistinct⟩ := hrange
  obtain ⟨u, st, x, y, heffect, rfl⟩ := exec_effect hexec
  obtain ⟨q, xs, all, -, hothers, hwrite, hall, honly⟩ := heffect.channelWrite
  have hmem : Call.setClockDivisor (s.pin p).handle cd ∈ xs :=
    (honly _ (hcalls.unique hall ▸ hmem)).resolve_right nofun
  obtain ⟨hbq, hhandle, hlast, hchanges⟩ := hwrite.setClockDivisor hmem
  by_cases hp : p = q
  case neg => exact absurd hhandle.symm (hwrite.handle_ne hdistinct hbq hp hb)
  case pos =>
    subst hp
    obtain ⟨henabled, -⟩ := hpins p
    exact ⟨hchanges hb (henabled hb), hlast⟩

/-! ### The Speaker records -/

/-- R47 of a slot, taken apart: the flags, the frequency, the volume with its scale, and the period. -/
theorem SlotWrite.consistent {s : State} (hc : s.cfg.FormatsLegal) {v : SlotId} {i : Instr} {r : SlotRec}
    (h : SlotWrite s v i r) (hv : SlotConsistent s.cfg (s.slot v)) : SlotConsistent s.cfg r := by
  cases h with
  | construct _ _ hfq =>
    exact fun _ => ⟨rfl, fun _ => rfl, hfq, SlotRec.withVolume_vol_le (s.slot v) hc _,
      SlotRec.construct_scale _ _ _ _ _ hc, SlotRec.construct_period _ _ _ _ _ hc⟩
  | freq hfq =>
    intro hvalid
    obtain ⟨htimer, hdl, -, hvol, hscale, -⟩ := hv hvalid
    exact ⟨htimer, hdl, hfq, hvol, hscale, stepPeriod_ofNat_toNat hc _ _⟩
  | volume =>
    intro hvalid
    obtain ⟨htimer, hdl, hfreq, -, -, hperiod⟩ := hv hvalid
    exact ⟨htimer, hdl, hfreq, SlotRec.withVolume_vol_le _ hc _, SlotRec.withVolume_scale_toNat _ hc _, hperiod⟩
  | wave =>
    cases hplaying : (s.slot v).playing
    case true => rw [SlotRec.withWave_of_playing hplaying]; exact hv
    case false =>
      rw [SlotRec.withWave_of_stopped hplaying]
      intro hvalid
      obtain ⟨htimer, hdl, hfreq, hvol, hscale, -⟩ := hv hvalid
      exact ⟨htimer, hdl, hfreq, hvol, hscale, stepPeriod_ofNat_toNat hc _ _⟩
  | deadline hplaying =>
    intro hvalid
    obtain ⟨htimer, -, hrest⟩ := hv hvalid
    exact ⟨htimer, fun hstopped => Bool.noConfusion (hplaying.symm.trans hstopped), hrest⟩
  | noDeadline =>
    intro hvalid
    obtain ⟨htimer, -, hrest⟩ := hv hvalid
    exact ⟨htimer, fun _ => rfl, hrest⟩
  | start =>
    intro hvalid
    obtain ⟨-, -, hrest⟩ := hv hvalid
    exact ⟨rfl, nofun, hrest⟩
  | stop =>
    intro hvalid
    obtain ⟨-, -, hrest⟩ := hv hvalid
    exact ⟨rfl, fun _ => rfl, hrest⟩
  | tick =>
    rw [SlotRec.ticked, SlotRec.commitSwap_eq]
    intro hvalid
    obtain ⟨htimer, hdl, hfreq, hvol, hscale, hperiod⟩ := hv hvalid
    refine ⟨htimer, hdl, hfreq, hvol, hscale, ?_⟩
    cases hdue : (s.slot v).swapDue
    · exact hperiod
    · exact stepPeriod_ofNat_toNat hc _ _

theorem stepPeriod_ofNat_pos {c : Config} (hc : c.FormatsLegal) (n : Nat) (fq : Int) :
    1 ≤ (BitVec.ofNat 32 (stepPeriod c n fq)).toNat := by
  rw [stepPeriod_ofNat_toNat hc]
  exact Nat.le_max_left ..

theorem SlotRec.withVolume_scale_le (r : SlotRec) {c : Config} (hc : c.FormatsLegal) (z : Int) :
    (r.withVolume c z).scale.toNat ≤ 65536 := by
  rw [r.withVolume_scale_toNat hc]
  exact volLaw_le hc (r.withVolume_vol_le hc z)

/-- A slot may hold the default waveform (R7). -/
theorem defaultWave_lt {c : Config} (hc : configLegal c = true) :
    (BitVec.ofNat 8 c.defaultWave).toNat < c.waves.length := by
  obtain ⟨-, -, -, -, -, hdefault, -⟩ := (configLegal_iff c).1 hc
  rwa [defaultWave_ofNat_toNat hc]

/-- R30 and R32 to R37: every write stores legal values. -/
theorem SlotWrite.inRange {s : State} (hc : configLegal s.cfg = true) {v : SlotId} {i : Instr} {r : SlotRec}
    (h : SlotWrite s v i r) (hv : SlotInRange s.cfg (s.slot v)) : SlotInRange s.cfg r := by
  have hformats := formatsLegal_of_configLegal hc
  cases h with
  | construct _ hp hfq =>
    exact fun _ => ⟨hp, defaultWave_lt hc, nofun, hfq, SlotRec.withVolume_vol_le (s.slot v) hformats _,
      SlotRec.withVolume_scale_le (s.slot v) hformats _, stepPeriod_ofNat_pos hformats _ _⟩
  | freq hfq =>
    intro hvalid
    obtain ⟨hpin, hwave, hpend, -, hvol, hscale, -⟩ := hv hvalid
    exact ⟨hpin, hwave, hpend, hfq, hvol, hscale, stepPeriod_ofNat_pos hformats _ _⟩
  | volume =>
    intro hvalid
    obtain ⟨hpin, hwave, hpend, hfreq, -, -, hperiod⟩ := hv hvalid
    exact ⟨hpin, hwave, hpend, hfreq, SlotRec.withVolume_vol_le _ hformats _,
      SlotRec.withVolume_scale_le _ hformats _, hperiod⟩
  | wave hw =>
    cases hplaying : (s.slot v).playing
    case true =>
      rw [SlotRec.withWave_of_playing hplaying]
      intro hvalid
      obtain ⟨hpin, hwave, -, hrest⟩ := hv hvalid
      exact ⟨hpin, hwave, fun _ => hw, hrest⟩
    case false =>
      rw [SlotRec.withWave_of_stopped hplaying]
      intro hvalid
      obtain ⟨hpin, -, hpend, hfreq, hvol, hscale, -⟩ := hv hvalid
      exact ⟨hpin, hw, hpend, hfreq, hvol, hscale, stepPeriod_ofNat_pos hformats _ _⟩
  | deadline => exact hv
  | noDeadline => exact hv
  | start => exact hv
  | stop => exact hv
  | tick =>
    rw [SlotRec.ticked, SlotRec.commitSwap_eq]
    intro hvalid
    obtain ⟨hpin, hwave, hpend, hfreq, hvol, hscale, hperiod⟩ := hv hvalid
    cases hdue : (s.slot v).swapDue
    case false => exact ⟨hpin, hwave, fun hp => hpend (by simpa using hp), hfreq, hvol, hscale, hperiod⟩
    case true =>
      have hpending : (s.slot v).pendValid = true := by
        simp only [SlotRec.swapDue, Bool.and_eq_true] at hdue
        exact hdue.2
      exact ⟨hpin, hpend hpending, fun hp => by simp at hp, hfreq, hvol, hscale,
        stepPeriod_ofNat_pos hformats _ _⟩

/-! ### Every operation, every step -/

/-- R47 is kept by every operation. -/
theorem exec_recordsConsistent {i : Instr} {s t : State} (hc : configLegal s.cfg = true)
    (h : exec i s = .next t) (hs : RecordsConsistent s) : RecordsConsistent t := by
  obtain ⟨hpins, hslots⟩ := hs
  obtain ⟨u, st, x, y, heffect, rfl⟩ := exec_effect h
  obtain ⟨p, calls, all, ⟨hcfg, -⟩, hothers, hwrite, -⟩ := heffect.channelWrite
  refine ⟨fun q => ?pin, fun v => ?slot⟩
  case pin =>
    rw [State.respond_pin]
    by_cases hq : q = p
    · rw [hq]; exact hwrite.consistent (hpins p)
    · rw [hothers q hq]; exact hpins q
  case slot =>
    rw [State.respond_slot, State.respond_cfg, hcfg]
    rcases heffect.slot v with hsame | hslot
    · rw [hsame]; exact hslots v
    · exact hslot.consistent (formatsLegal_of_configLegal hc) (hslots v)

/-- The legal values are kept by every operation. -/
theorem exec_recordsInRange {i : Instr} {s t : State} (hc : configLegal s.cfg = true)
    (h : exec i s = .next t) (hs : RecordsInRange s) : RecordsInRange t := by
  obtain ⟨hpins, hslots, hdistinct⟩ := hs
  obtain ⟨u, st, x, y, heffect, rfl⟩ := exec_effect h
  obtain ⟨p, calls, all, ⟨hcfg, -⟩, hothers, hwrite, -⟩ := heffect.channelWrite
  refine ⟨fun q => ?pin, fun v => ?slot, fun q q' hq hq' heq => ?distinct⟩
  case pin =>
    rw [State.respond_pin, State.respond_cfg, hcfg]
    by_cases hq : q = p
    · rw [hq]; exact hwrite.inRange (formatsLegal_of_configLegal hc) (hpins p)
    · rw [hothers q hq]; exact hpins q
  case slot =>
    rw [State.respond_slot, State.respond_cfg, hcfg]
    rcases heffect.slot v with hsame | hslot
    · rw [hsame]; exact hslots v
    · exact hslot.inRange hc (hslots v)
  case distinct =>
    rw [State.respond_pin] at hq hq'
    rw [State.respond_pin, State.respond_pin] at heq
    by_cases hqp : q = p <;> by_cases hqp' : q' = p
    · rw [hqp, hqp']
    · subst hqp
      rw [hothers q' hqp'] at hq' heq
      exact absurd heq.symm (hwrite.handle_ne hdistinct hq hqp' hq')
    · subst hqp'
      rw [hothers q hqp] at hq heq
      exact absurd heq (hwrite.handle_ne hdistinct hq' hqp hq)
    · rw [hothers q hqp] at hq heq
      rw [hothers q' hqp'] at hq' heq
      exact hdistinct q q' hq hq' heq

/-- A step keeps what every operation keeps and what neither the port nor the response is part of. -/
theorem step_keeps {P : State → Prop} (haccept : ∀ s t rest, P s → P (State.accept s t rest))
    (hillegal : ∀ s : State, P s → P s.illegal)
    (hexec : ∀ {i : Instr} {s t : State}, configLegal s.cfg = true → exec i s = .next t → P s → P t)
    {s t : State} (hs : P s) (h : step s = .next t) : P t := by
  obtain ⟨hc, ⟨-, rfl⟩ | ⟨tr, rest, -, rfl | ⟨i, hi⟩⟩⟩ := step_next_cases h
  · exact hs
  · exact hillegal _ (haccept s tr rest hs)
  · exact hexec (s := s.accept tr rest) hc hi (haccept s tr rest hs)

/-- Settles O57: every operation keeps the invariants, and so does every step. -/
theorem stepKeepsRecordsConsistent : Obligations.StepKeepsRecordsConsistent := by
  unfold Obligations.StepKeepsRecordsConsistent
  exact fun s t hs h =>
    step_keeps (P := RecordsConsistent) (fun _ _ _ => id) (fun _ => id) exec_recordsConsistent hs h

/-- Settles O58: every operation keeps the legal values, and so does every step. -/
theorem stepKeepsRecordsInRange : Obligations.StepKeepsRecordsInRange := by
  unfold Obligations.StepKeepsRecordsInRange
  exact fun s t hs h =>
    step_keeps (P := RecordsInRange) (fun _ _ _ => id) (fun _ => id) exec_recordsInRange hs h

end Sys2Proof.Machine
end
